-- ==== Sys2Proof/Word.lean ====
section
/-! DEFINITION. The widths of the machine: bytes, 16-bit packet fields, 32-bit registers, 19-bit host addresses. -/

namespace Sys2Proof

/-- One byte of IBUF or OBUF (20_memory R60). -/
abbrev Byte := BitVec 8

/-- A 16-bit field: `cmd1`, `cmd2`, `length`, a CRC (00_scope R9). -/
abbrev Half := BitVec 16

/-- A register, `REG_W` = 32 bits (00_scope R8). -/
abbrev Word := BitVec 32

/-- A host byte address in the aperture, `ADDR_W` = 19 bits (20_memory R61). -/
abbrev Addr := BitVec 19

end Sys2Proof
end

