-- ==== Sys2Proof/Config.lean ====
section
/-! DEFINITION. The parameters of an instance (00_scope R8): BUF_BYTES, FD_EXT_ROUTE_TAG, RM_BASE. -/

namespace Sys2Proof

/-- The parameters the spec leaves to an instance (93_implementation_defined U13, U14, U15). A capacity outside
65546..131072 cannot be written: the capacity is held as its excess over the least legal one (20_memory R62: a model
must reject such a configuration). -/
structure Params where
  /-- `BUF_BYTES - 65546`. -/
  bufExtra : Fin 65527
  /-- `FD_EXT_ROUTE_TAG = 1`: CANFD_EXT frames carry the route tag (43_frame_decoder R204). -/
  fdExtRouteTag : Bool
  /-- `RM_BASE`, the block's base address on the platform bus (20_memory R61). -/
  rmBase : Nat
  deriving DecidableEq, Repr

/-- `BUF_BYTES`, the capacity in bytes of IBUF and of OBUF each (00_scope R8, 10_state R30). -/
def Params.bufBytes (p : Params) : Nat := 65546 + p.bufExtra.val

/-- The defaults of 00_scope R8. DESIGN CHOICE (log 9): `RM_BASE = 0`, for which the spec gives no default; no
behaviour depends on it (92_eei_decisions D7). -/
def Params.default : Params := { bufExtra := 0, fdExtRouteTag := true, rmBase := 0 }

/-- The parameters with a capacity of `n` bytes, refused outside the legal range (00_scope R8, 20_memory R62). -/
def Params.ofBufBytes? (n : Nat) (fdExtRouteTag : Bool) (rmBase : Nat) : Option Params :=
  if h : 65546 ≤ n ∧ n ≤ 131072 then
    some { bufExtra := ⟨n - 65546, by omega⟩, fdExtRouteTag := fdExtRouteTag, rmBase := rmBase }
  else none

end Sys2Proof
end

