-- ==== Sys2Proof/Syntax.lean ====
section
/-! DEFINITION. The commands of the opcode map (30_encoding R91), one constructor per row of spec/opcode_table.json. -/

namespace Sys2Proof

/-- A command. A command word has no operand field (30_encoding R93): every operand comes from a register or IBUF. -/
inductive Instr where
  /-- Completes with no effect but the completion (44_control R232). -/
  | nop
  /-- CRC of the bytes in IBUF (40_crc16 R131). -/
  | crc16
  /-- Wraps the payload in IBUF in a packet (41_packet_framer R145). -/
  | makePacket
  /-- Checks the packet in IBUF and copies its payload to OBUF (41_packet_framer R157). -/
  | parsePacket
  /-- Encodes a 5-byte CAN transmit header (42_can_header_codec R178). -/
  | encodeCanHeader
  /-- Decodes the receive frame in IBUF (43_frame_decoder R205). -/
  | decodeFrame
  deriving DecidableEq, Repr

end Sys2Proof
end

