-- ==== Sys2Proof/WellFormed.lean ====
section
/-! DEFINITION. What is well formed: every command (it has no operand field), and a capacity in the legal range. -/

namespace Sys2Proof

/-- Every command is well formed: its word carries only OP, and OP is fixed by the constructor (30_encoding R93). -/
def Instr.wellFormed : Instr → Bool
  | .nop => true
  | .crc16 => true
  | .makePacket => true
  | .parsePacket => true
  | .encodeCanHeader => true
  | .decodeFrame => true

/-- A capacity an instance may have (00_scope R8: any value from 65546 to 131072 is legal). -/
def wellFormedCapacity (n : Nat) : Bool := decide (65546 ≤ n ∧ n ≤ 131072)

end Sys2Proof
end

