-- ==== Sys2Proof/Decode.lean ====
section
/-! DEFINITION. The command word (30_encoding R90, R91): its decoder, total on every 32-bit word and rejecting by name, and
after it the encoder. -/

namespace Sys2Proof

/-- Why a command word selects no command (30_encoding R92). Both complete with IllegalCommand. -/
inductive DecodeError where
  /-- Bits 31:3 are not all zero. -/
  | reservedBits
  /-- OP is 6 or 7. -/
  | reservedOp
  deriving DecidableEq, Repr

/-- The field OP, bits 2:0 of a command word (30_encoding R90). -/
def opField (w : Word) : BitVec 3 := w.extractLsb' 0 3

/-- The field RSVD, bits 31:3 of a command word (30_encoding R90). -/
def rsvdField (w : Word) : BitVec 29 := w.extractLsb' 3 29

/-- The case split of `dispatch` (44_control R234) on a command word. -/
def decode (w : Word) : Except DecodeError Instr :=
  if rsvdField w ≠ 0 then .error .reservedBits
  else
    match (opField w).toNat with
    | 0 => .ok .nop
    | 1 => .ok .crc16
    | 2 => .ok .makePacket
    | 3 => .ok .parsePacket
    | 4 => .ok .encodeCanHeader
    | 5 => .ok .decodeFrame
    | _ => .error .reservedOp

/-- The OP value of a command (30_encoding R91). -/
def opcode : Instr → BitVec 3
  | .nop => 0
  | .crc16 => 1
  | .makePacket => 2
  | .parsePacket => 3
  | .encodeCanHeader => 4
  | .decodeFrame => 5

/-- The command word of a command: OP in bits 2:0, bits 31:3 zero (30_encoding R90). -/
def encode (i : Instr) : Word := (0 : BitVec 29) ++ opcode i

/-- The 32-bit word whose low `nbits` bits are those of `w`, the others zero. -/
def tableWord (nbits w : Nat) : Word := BitVec.ofNat 32 (w % 2 ^ nbits)

/-- What the decoder reads from a row of the opcode table: a command is one 32-bit word (30_encoding R90). -/
def decodeTableWord (nbits w : Nat) : Option Instr := (decode (tableWord nbits w)).toOption

end Sys2Proof
end

