-- ==== Sys2Proof/Machine/State.lean ====
section
/-! DEFINITION. The state of the block (spec 10_state.md), the ways it can stop, and the state right after reset. -/

namespace Sys2Proof.Machine

/-- `ENG_STATE` (10_state R21). -/
inductive EngState where
  | idle
  | busy
  deriving DecidableEq, Repr

/-- The model faults of 60_exceptions R260 to R262. Each is raised at the access the spec names, which changes no state;
the step keeps every fault the access raises in the fault record, and the machine then stops with the first of them. -/
inductive Fault where
  /-- Raised by a host access the busy window forbids (60_exceptions R260, 70_reset_and_hazards R290). Safe: real hardware
  goes on in a way the spec does not give. -/
  | hostHazard
  /-- Raised by a host access of a width, alignment or address that 20_memory R65 does not allow (60_exceptions R261).
  Safe: a real platform signals a bus error in a way it defines. -/
  | hostBusError
  /-- Raised by an engine read of an IBUF byte, or a host read of an IBUF or OBUF byte, that nothing has written since reset
  (60_exceptions R262). Safe: real hardware returns an unspecified value. -/
  | uninitialisedRead
  deriving DecidableEq, Repr

/-- Why an instruction has no meaning. -/
inductive Refusal where
  /-- Raised by an arm of `exec` for a command not modelled yet. Safe: the machine stops. -/
  | notModelled (mnemonic : String)
  deriving DecidableEq, Repr

/-- A byte memory: the bytes written since reset, by offset, offsets strictly rising (20_memory R60). A listed offset is
the written-mark of 10_state R37. -/
abbrev Memory := List Host.Cell

/-- What a byte that nothing has written since reset reads as: no value (10_state R40, 60_exceptions R262). -/
def Memory.unlisted : Option Byte := none

/-- The form every memory is kept in: offsets strictly rising. No entry can equal what an unlisted offset reads as, for
that is no value. -/
def Memory.wf (m : Memory) : Bool := decide (m.Pairwise fun c d => c.1 < d.1)

/-- An event at the block's boundary, or the engine's turn among them (10_state R20, 20_memory R75). The order of the
pending events is the interleaving of host, engine and platform (DESIGN CHOICE, log 5). -/
inductive Input where
  /-- A host read of `width` bits at an offset of the aperture. -/
  | read (off : Addr) (width : Nat)
  /-- A host write of the low `width` bits of `value` at an offset of the aperture. -/
  | write (off : Addr) (width : Nat) (value : Word)
  /-- The statement `wait` of 30_encoding R95: read STATUS until BUSY reads 0. A busy engine takes its step after
  `polls` reads that return BUSY = 1. -/
  | poll (polls : Nat)
  /-- A busy engine takes its step here; an idle one does nothing. -/
  | engine
  /-- The platform asserts reset (70_reset_and_hazards R280). -/
  | reset
  deriving DecidableEq, Repr

/-- The state of one instance. -/
structure State where
  /-- `ENG_STATE` (10_state R21). -/
  engState : EngState
  /-- `PEND`, the command word latched at the last start (10_state R21). -/
  pend : Word
  /-- CMD, offset 0x00 (10_state R23). -/
  cmd : Word
  /-- STATUS, offset 0x04 (10_state R24). -/
  status : Word
  /-- IN_LEN, offset 0x08 (10_state R25). -/
  inLen : Word
  /-- ARG0, offset 0x0C (10_state R26). -/
  arg0 : Word
  /-- ARG1, offset 0x10 (10_state R27). -/
  arg1 : Word
  /-- OUT_LEN, offset 0x14 (10_state R28). -/
  outLen : Word
  /-- RES0, offset 0x18 (10_state R29). -/
  res0 : Word
  /-- RES1, offset 0x1C (10_state R29). -/
  res1 : Word
  /-- RES2, offset 0x20 (10_state R29). -/
  res2 : Word
  /-- RES3, offset 0x24 (10_state R29). -/
  res3 : Word
  /-- RES4, offset 0x28 (10_state R29). -/
  res4 : Word
  /-- RES5, offset 0x2C (10_state R29). -/
  res5 : Word
  /-- IBUF (20_memory R60). -/
  ibuf : Memory
  /-- OBUF (20_memory R60). -/
  obuf : Memory
  /-- The busy window is open: a command has started and the host has not yet read STATUS with BUSY = 0
  (70_reset_and_hazards R290). -/
  window : Bool
  /-- The model's fault record (10_state R37, 60_exceptions R263): every fault the faulting access raised, in the order of
  the constructors of `Fault` (log 10); empty while none was recorded. -/
  faultRecord : List Fault
  /-- The parameters of the instance; CAP reads its capacity (10_state R30). No step changes them. -/
  params : Params
  /-- The model's own: the events still to come, first first (log 4). -/
  inputs : List Input
  /-- The model's own: what host reads returned, newest first (log 6). -/
  reads : List Word
  deriving DecidableEq, Repr

/-- Every piece of the block's state at its reset value (10_state R40), for the parameters `p`, with the model's own
fields given. -/
def State.atReset (p : Params) (inputs : List Input) (reads : List Word) : State :=
  { engState := .idle, pend := 0, cmd := 0, status := 0, inLen := 0, arg0 := 0, arg1 := 0, outLen := 0
    res0 := 0, res1 := 0, res2 := 0, res3 := 0, res4 := 0, res5 := 0
    ibuf := [], obuf := [], window := false, faultRecord := []
    params := p, inputs := inputs, reads := reads }

/-- The machine right after reset (10_state R40), with the default parameters and no event to come. -/
def State.reset : State := State.atReset Params.default [] []

end Sys2Proof.Machine
end

