-- ==== Sys2Proof/Machine/Flags.lean ====
section
/-! DEFINITION. The fields of STATUS, the values it takes, and the error kinds with their codes (10_state R24,
44_control R231 and R236, 60_exceptions R250 and R253). -/

namespace Sys2Proof.Machine

/-- The error kinds (00_scope R14, 60_exceptions R250). -/
inductive ErrKind where
  | invalidArgument
  | framingError
  | truncatedPacket
  | truncatedFrame
  | crcMismatch
  | unsupportedFrameKind
  | idOutOfRange
  | illegalCommand
  deriving DecidableEq, Repr

/-- `code(E)`, the ERRCODE of an error kind (60_exceptions R250). -/
def ErrKind.code : ErrKind → BitVec 4
  | .invalidArgument => 1
  | .framingError => 2
  | .truncatedPacket => 3
  | .truncatedFrame => 4
  | .crcMismatch => 5
  | .unsupportedFrameKind => 6
  | .idOutOfRange => 7
  | .illegalCommand => 8

/-- STATUS.BUSY, bit 0 (10_state R24). -/
def busyBit (status : Word) : Bool := status.getLsbD 0

/-- STATUS.DONE, bit 1 (10_state R24). -/
def doneBit (status : Word) : Bool := status.getLsbD 1

/-- STATUS.ERR, bit 2 (10_state R24). -/
def errBit (status : Word) : Bool := status.getLsbD 2

/-- STATUS.ERRCODE, bits 7:4 (10_state R24). -/
def errCode (status : Word) : BitVec 4 := status.extractLsb' 4 4

/-- STATUS while a command is outstanding (44_control R231). -/
def statusStarted : Word := 0x00000001

/-- STATUS after a successful completion (44_control R236). -/
def statusOk : Word := 0x00000002

/-- STATUS after an error completion (60_exceptions R253). -/
def statusErr (e : ErrKind) : Word := 0x00000006 ||| (e.code.zeroExtend 32 <<< 4)

/-- The combinations of STATUS fields that are ever held (10_state R24). -/
def legalStatus (w : Word) : Bool :=
  (!busyBit w || (!doneBit w && !errBit w && errCode w == 0))
    && (errBit w || errCode w == 0)
    && (!errBit w || (doneBit w && decide (1 ≤ (errCode w).toNat) && decide ((errCode w).toNat ≤ 8)))
    && !w.getLsbD 3 && w.extractLsb' 8 24 == 0

end Sys2Proof.Machine
end

