-- ==== Sys2Proof/Machine/Operands.lean ====
section
/-! DEFINITION. The operands each command assembles from registers (30_encoding R93), the CAP view, and the byte orders
of the wire formats (00_scope R11, R12; 20_memory R68 to R70). -/

namespace Sys2Proof.Machine

/-! ## Operand assembly (30_encoding R93) -/

/-- `N = R[IN_LEN]`, the input byte count (10_state R25). -/
def State.inCount (s : State) : Nat := s.inLen.toNat

/-- `init` of CRC16, ARG0[15:0] (40_crc16 R130). -/
def State.crcInit (s : State) : Half := s.arg0.extractLsb' 0 16

/-- `cmd1` of MAKE_PACKET, ARG0[15:0]. -/
def State.cmd1 (s : State) : Half := s.arg0.extractLsb' 0 16

/-- `cmd2` of MAKE_PACKET, ARG1[15:0]. -/
def State.cmd2 (s : State) : Half := s.arg1.extractLsb' 0 16

/-- `can_id` of ENCODE_CAN_HEADER, the whole of ARG0. -/
def State.canId (s : State) : Word := s.arg0

/-- `timestamp_enabled` of ENCODE_CAN_HEADER, ARG1[0]. -/
def State.tsEnabled (s : State) : Bool := s.arg1.getLsbD 0

/-- `fd` of ENCODE_CAN_HEADER, ARG1[1]. -/
def State.fd (s : State) : Bool := s.arg1.getLsbD 1

/-- `extended` of ENCODE_CAN_HEADER, ARG1[2]. -/
def State.extended (s : State) : Bool := s.arg1.getLsbD 2

/-- `brs` of ENCODE_CAN_HEADER, ARG1[3]. -/
def State.brs (s : State) : Bool := s.arg1.getLsbD 3

/-- CAP: always BUF_BYTES (10_state R30). -/
def State.cap (s : State) : Word := BitVec.ofNat 32 s.params.bufBytes

/-! ## Byte orders -/

/-- `be16(v)`, high byte first (00_scope R11). -/
def be16 (v : Half) : List Byte := [v.extractLsb' 8 8, v.extractLsb' 0 8]

/-- The byte `B[k]` (0 past the end; every use is within its sequence). -/
def byteAt (bs : List Byte) (k : Nat) : Byte := bs.getD k 0

/-- `(B[k] << 8) | B[k+1]`, the big-endian field at byte `k` (20_memory R68). -/
def be16At (bs : List Byte) (k : Nat) : Half := byteAt bs k ++ byteAt bs (k + 1)

/-- `le_int(B)`, the little-endian integer of a byte sequence (00_scope R11). -/
def leInt : List Byte → Nat
  | [] => 0
  | b :: bs => b.toNat + 256 * leInt bs

/-- `le_bytes_n(v)`, low byte first (00_scope R11). -/
def leBytes : Nat → Nat → List Byte
  | 0, _ => []
  | n + 1, v => BitVec.ofNat 8 v :: leBytes n (v / 256)

/-- `field(B, lo, w)`, `w` bits of the little-endian bit stream from stream bit `lo` (00_scope R12, 20_memory R70). -/
def field (bs : List Byte) (lo w : Nat) : Nat := (leInt bs >>> lo) % 2 ^ w

/-- A flag as a bit of a 32-bit word. -/
def flagWord (b : Bool) : Word := if b then 1 else 0

end Sys2Proof.Machine
end

