-- ==== Sys2Proof/Machine/Ops.lean ====
section
/-! DEFINITION. The named operations over memory and registers: reading and writing IBUF and OBUF, the two completions of a
command (`finish_ok`, 44_control R236; `raise`, 60_exceptions R253), and the checks several commands share. -/

namespace Sys2Proof.Machine

/-! ## Byte memories -/

/-- The byte at offset `a`, if one was written since reset. -/
def Memory.read : Memory → Nat → Option Byte
  | [], _ => Memory.unlisted
  | (b, v) :: m, a => if a = b then some v else Memory.read m a

/-- Writes one byte, keeping the offsets rising. -/
def Memory.write : Memory → Nat → Byte → Memory
  | [], a, v => [(a, v)]
  | (b, w) :: m, a, v =>
    if a < b then (a, v) :: (b, w) :: m
    else if a = b then (a, v) :: m
    else (b, w) :: Memory.write m a v

/-- `MemRead(·, a, n)`: the `n` bytes from offset `a`, if every one of them was written (00_scope R13). -/
def Memory.readRange (m : Memory) (a : Nat) : Nat → Option (List Byte)
  | 0 => some []
  | n + 1 =>
    match m.read a, Memory.readRange m (a + 1) n with
    | some v, some vs => some (v :: vs)
    | _, _ => none

/-- `MemWrite(·, a, n, V)`: the bytes of `V` from offset `a` on (00_scope R13). -/
def Memory.writeRange (m : Memory) (a : Nat) : List Byte → Memory
  | [] => m
  | v :: vs => Memory.writeRange (m.write a v) (a + 1) vs

/-! ## Completions -/

/-- `finish_ok(out_len, r0, …, r5)` (44_control R236). -/
def State.finishOk (s : State) (outLen r0 r1 r2 r3 r4 r5 : Word) : State :=
  { s with
    outLen := outLen, res0 := r0, res1 := r1, res2 := r2, res3 := r3, res4 := r4, res5 := r5
    status := statusOk, engState := .idle }

/-- `raise E`, the error completion (60_exceptions R253): the block's only exception entry. Nothing but the code is saved
(R254), no control moves, and there is no return from it (R257). -/
def State.raise (s : State) (e : ErrKind) : State :=
  { s with
    outLen := 0, res0 := 0, res1 := 0, res2 := 0, res3 := 0, res4 := 0, res5 := 0
    status := statusErr e, engState := .idle }

/-- The state with the contents `m` of IBUF. -/
def State.withIbuf (s : State) (m : Memory) : State := { s with ibuf := m }

/-- The state with the contents `m` of OBUF. -/
def State.withObuf (s : State) (m : Memory) : State := { s with obuf := m }

/-- `MemWrite(OBUF, 0, len(V), V)`. -/
def State.writeObuf (s : State) (vs : List Byte) : State := s.withObuf (s.obuf.writeRange 0 vs)

/-! ## Shared checks -/

/-- The outcome of an engine step. -/
abbrev Result := Host.Outcome State Fault Refusal

/-- Goes on with the `n` bytes of IBUF from offset `a`; faults where one was never written (60_exceptions R262). -/
def State.withInput (s : State) (a n : Nat) (k : List Byte → Result) : Result :=
  match s.ibuf.readRange a n with
  | some bs => k bs
  | none => .fault .uninitialisedRead

/-- The IN_LEN bound (44_control R238): goes on with `N = R[IN_LEN]` when it is at most BUF_BYTES. -/
def State.withCount (s : State) (k : Nat → Result) : Result :=
  if s.inCount > s.params.bufBytes then .next (s.raise .invalidArgument) else k s.inCount

end Sys2Proof.Machine
end

