-- ==== Sys2Proof/Machine/Control.lean ====
section
/-! DEFINITION. Command control (spec 44_control.md): starting a command, NOP, and illegal command words. -/

namespace Sys2Proof.Machine

/-- Start: the host wrote `w` to CMD while no command was outstanding (44_control R231). The busy window opens
(70_reset_and_hazards R290). -/
def State.start (s : State) (w : Word) : State :=
  { s with cmd := w, pend := w, status := statusStarted, engState := .busy, window := true }

/-- NOP (44_control R232). -/
def execNop (s : State) : Result := .next (s.finishOk 0 0 0 0 0 0 0)

/-- A command word outside the opcode map (44_control R233). -/
def illegalCommand (s : State) : Result := .next (s.raise .illegalCommand)

end Sys2Proof.Machine
end

