-- ==== Sys2Proof/Machine/Bus.lean ====
section
/-! DEFINITION. Host accesses: the register map (10_state R22), the address map and widths (20_memory R61 to R65), the
busy window (70_reset_and_hazards R290) and reset (R280). -/

namespace Sys2Proof.Machine

/-- The registers of the register window (10_state R22); `reserved` is any offset of R31. -/
inductive Reg where
  | cmd
  | status
  | inLen
  | arg0
  | arg1
  | outLen
  | res0
  | res1
  | res2
  | res3
  | res4
  | res5
  | cap
  | reserved
  deriving DecidableEq, Repr

/-- The register at a word of the register window (10_state R22). -/
def regAt (word : Nat) : Reg :=
  match word with
  | 0 => .cmd
  | 1 => .status
  | 2 => .inLen
  | 3 => .arg0
  | 4 => .arg1
  | 5 => .outLen
  | 6 => .res0
  | 7 => .res1
  | 8 => .res2
  | 9 => .res3
  | 10 => .res4
  | 11 => .res5
  | 12 => .cap
  | _ => .reserved

/-- What a host access reaches: a register, or bytes of a buffer from an offset on (20_memory R62). -/
inductive Target where
  | reg (r : Reg)
  | ibuf (k : Nat)
  | obuf (k : Nat)
  deriving DecidableEq, Repr

/-! The bounds of the regions (20_memory R62). -/

/-- The end of the register window. -/
def regWindowEnd : Nat := 0x100
/-- The start of the IBUF window. -/
def ibufBase : Nat := 0x20000
/-- The start of the OBUF window, the end of the IBUF window. -/
def obufBase : Nat := 0x40000
/-- The end of the OBUF window. -/
def obufEnd : Nat := 0x60000

/-- The offset of STATUS. -/
def statusOff : Addr := 0x04

/-- A register access is 32 bits wide at a multiple of 4 (20_memory R63). -/
def regAccessOk (a width : Nat) : Bool := width == 32 && a % 4 == 0

/-- A buffer access is 8, 16 or 32 bits wide, aligned to its width and inside the buffer (20_memory R63, R65). -/
def bufAccessOk (p : Params) (k width : Nat) : Bool :=
  (width == 8 || (width == 16 && k % 2 == 0) || (width == 32 && k % 4 == 0)) && decide (k + width / 8 ≤ p.bufBytes)

/-- What an access of `width` bits at an offset reaches; none is a bus error (20_memory R65). -/
def busTarget (p : Params) (off : Addr) (width : Nat) : Option Target :=
  let a := off.toNat
  if a < regWindowEnd then
    if regAccessOk a width then some (.reg (regAt (a / 4))) else none
  else if ibufBase ≤ a ∧ a < obufBase then
    if bufAccessOk p (a - ibufBase) width then some (.ibuf (a - ibufBase)) else none
  else if obufBase ≤ a ∧ a < obufEnd then
    if bufAccessOk p (a - obufBase) width then some (.obuf (a - obufBase)) else none
  else none

/-- The offset a platform bus address reaches, if it lies in the aperture at `RM_BASE` (20_memory R61). -/
def offsetOf? (p : Params) (busAddr : Nat) : Option Addr :=
  if p.rmBase ≤ busAddr ∧ busAddr < p.rmBase + 2 ^ 19 then some (BitVec.ofNat 19 (busAddr - p.rmBase)) else none

/-- The host may make no access but those of `allowedInWindow` (70_reset_and_hazards R290; 44_control R231 and
10_state R32 say it of BUSY = 1). -/
def State.windowOpen (s : State) : Bool := s.window || busyBit s.status

/-- The reads the busy window allows: STATUS and CAP (70_reset_and_hazards R290). -/
def allowedInWindow (t : Target) : Bool := t == .reg .status || t == .reg .cap

/-- The value a read of a register returns (10_state R22, R30, R31). -/
def State.readReg (s : State) : Reg → Word
  | .cmd => s.cmd
  | .status => s.status
  | .inLen => s.inLen
  | .arg0 => s.arg0
  | .arg1 => s.arg1
  | .outLen => s.outLen
  | .res0 => s.res0
  | .res1 => s.res1
  | .res2 => s.res2
  | .res3 => s.res3
  | .res4 => s.res4
  | .res5 => s.res5
  | .cap => s.cap
  | .reserved => 0

/-- R[IN_LEN] <- v. -/
def State.withInLen (s : State) (v : Word) : State := { s with inLen := v }

/-- R[ARG0] <- v. -/
def State.withArg0 (s : State) (v : Word) : State := { s with arg0 := v }

/-- R[ARG1] <- v. -/
def State.withArg1 (s : State) (v : Word) : State := { s with arg1 := v }

/-- A write of a register: CMD starts a command, IN_LEN, ARG0 and ARG1 keep it, the others ignore it (10_state R22, R31,
R32). -/
def State.writeReg (s : State) (r : Reg) (v : Word) : State :=
  match r with
  | .cmd => s.start v
  | .inLen => s.withInLen v
  | .arg0 => s.withArg0 v
  | .arg1 => s.withArg1 v
  | .status => s
  | .outLen => s
  | .res0 => s
  | .res1 => s
  | .res2 => s
  | .res3 => s
  | .res4 => s
  | .res5 => s
  | .cap => s
  | .reserved => s

/-- A little-endian read of `width` bits of a buffer (20_memory R64), zero-extended (DESIGN CHOICE, log 16); no value
where a byte it covers was never written since reset. -/
def readBuffer (m : Memory) (k width : Nat) : Option Word :=
  (m.readRange k (width / 8)).map fun bs => BitVec.ofNat 32 (leInt bs)

/-- The value `width` bits of a target hold, if each byte of them was written. -/
def State.valueAt (s : State) (width : Nat) : Target → Option Word
  | .reg r => some (s.readReg r)
  | .ibuf k => readBuffer s.ibuf k width
  | .obuf k => readBuffer s.obuf k width

/-- HostHazard, where the busy window is open and the access is not one it allows (70_reset_and_hazards R290). -/
def State.hazard (s : State) (allowed : Bool) : List Fault := if s.windowOpen && !allowed then [.hostHazard] else []

/-- The value of a host read, which has no side effect (20_memory R73), or every fault it raises. An access of an illegal
form is a HostBusError in the busy window too, beside the HostHazard; a legal read of a byte never written is an
UninitialisedRead (60_exceptions R262) in the busy window too, beside the HostHazard. DESIGN CHOICE (log 10): the spec
orders none of the three, so all that apply are recorded, and an access of an illegal form reads no byte. -/
def hostRead (s : State) (off : Addr) (width : Nat) : Except (List Fault) Word :=
  match busTarget s.params off width with
  | none => .error (s.hazard false ++ [.hostBusError])
  | some t =>
    match s.valueAt width t, s.hazard (allowedInWindow t) with
    | some v, [] => .ok v
    | some _, f :: fs => .error (f :: fs)
    | none, fs => .error (fs ++ [.uninitialisedRead])

/-- A write of the low `width` bits of a value to a target (20_memory R64; DESIGN CHOICE of the low bits, log 16). -/
def State.writeTarget (s : State) (width : Nat) (v : Word) : Target → State
  | .reg r => s.writeReg r v
  | .ibuf k => s.withIbuf (s.ibuf.writeRange k (leBytes (width / 8) v.toNat))
  | .obuf k => s.withObuf (s.obuf.writeRange k (leBytes (width / 8) v.toNat))

/-- A host write (20_memory R64, R73), or every fault it raises: a HostBusError for an illegal form, and in the busy window
a HostHazard, for no write is allowed there (70_reset_and_hazards R290). DESIGN CHOICE (log 10): both are recorded where
both apply. -/
def hostWrite (s : State) (off : Addr) (width : Nat) (v : Word) : Except (List Fault) State :=
  match busTarget s.params off width, s.hazard false with
  | none, fs => .error (fs ++ [.hostBusError])
  | some _, f :: fs => .error (f :: fs)
  | some t, [] => .ok (s.writeTarget width v t)

/-- The host receives the value of its read; a read of STATUS that returns BUSY = 0 closes the busy window
(70_reset_and_hazards R290). -/
def State.deliver (s : State) (off : Addr) (v : Word) : State :=
  { s with reads := v :: s.reads, window := s.window && !(off == statusOff && !busyBit v) }

/-- Reset, one atomic step (70_reset_and_hazards R280): every piece of state takes its reset value, a command in flight is
abandoned and the fault record is emptied (60_exceptions R263). -/
def State.platformReset (s : State) : State := State.atReset s.params s.inputs s.reads

/-- The state with the given events still to come. -/
def State.withInputs (s : State) (es : List Input) : State := { s with inputs := es }

/-- The state with these faults recorded, and nothing else changed (60_exceptions R260 to R262). -/
def State.withFaults (s : State) (fs : List Fault) : State := { s with faultRecord := fs }

/-- A host read as an event. -/
def readEvent (s : State) (off : Addr) (width : Nat) : State :=
  match hostRead s off width with
  | .ok v => s.deliver off v
  | .error fs => s.withFaults fs

/-- A host write as an event. -/
def writeEvent (s : State) (off : Addr) (width : Nat) (v : Word) : State :=
  match hostWrite s off width v with
  | .ok s' => s'
  | .error fs => s.withFaults fs

/-- One STATUS read of the statement `wait` (30_encoding R95): the statement ends when BUSY reads 0. -/
def pollEvent (s : State) (polls : Nat) : State :=
  match hostRead s statusOff 32 with
  | .ok v =>
    if busyBit v then (s.deliver statusOff v).withInputs (.poll (polls - 1) :: s.inputs) else s.deliver statusOff v
  | .error fs => s.withFaults fs

end Sys2Proof.Machine
end

