-- ==== Sys2Proof/Machine/CanHeader.lean ====
section
/-! DEFINITION. The CAN header codec (spec 42_can_header_codec.md): the function `encode_can_header` and the command
ENCODE_CAN_HEADER. -/

namespace Sys2Proof.Machine

/-- `CAN_HDR_LEN` (00_scope R8). -/
def canHdrLen : Nat := 5

/-! The bit positions of the transmit header (42_can_header_codec R172). -/

/-- TS_EN, bit 0. -/
def txTsLsb : Nat := 0
/-- PROTO, bit 1. -/
def txProtoLsb : Nat := 1
/-- ID, bits 30:2. -/
def txIdLsb : Nat := 2
/-- FDF, bit 31. -/
def txFdfLsb : Nat := 31
/-- RTR, bit 32. -/
def txRtrLsb : Nat := 32
/-- IDE, bit 33. -/
def txIdeLsb : Nat := 33
/-- BRS, bit 34. -/
def txBrsLsb : Nat := 34

/-- A flag as bit `k` of the 40-bit header. -/
def txFlag (b : Bool) (k : Nat) : BitVec 40 := (if b then 1 else 0) <<< k

/-- The largest arbitration ID of a frame kind (42_can_header_codec R174). -/
def maxCanId (ext : Bool) : Nat := if ext then 0x1FFFFFFF else 0x7FF

/-- The 40-bit scalar `H` (42_can_header_codec R171). PROTO and RTR are constant 0 (R176); BRS is as supplied (R175). -/
def canHeaderBits (ts : Bool) (id : Word) (fd ext brs : Bool) : BitVec 40 :=
  txFlag ts txTsLsb ||| txFlag false txProtoLsb ||| (id.setWidth 40 <<< txIdLsb) ||| txFlag fd txFdfLsb
    ||| txFlag false txRtrLsb ||| txFlag ext txIdeLsb ||| txFlag brs txBrsLsb

/-- `encode_can_header(ts, id, fd, ext, brs)` (42_can_header_codec R171). -/
def encodeCanHeader (ts : Bool) (id : Word) (fd ext brs : Bool) : Except ErrKind (List Byte) :=
  if id.toNat > maxCanId ext then .error .idOutOfRange
  else .ok (leBytes canHdrLen (canHeaderBits ts id fd ext brs).toNat)

/-- ENCODE_CAN_HEADER (42_can_header_codec R178). -/
def execEncodeCanHeader (s : State) : Result :=
  match encodeCanHeader s.tsEnabled s.canId s.fd s.extended s.brs with
  | .error e => .next (s.raise e)
  | .ok k =>
    .next ((s.writeObuf k).finishOk (BitVec.ofNat 32 canHdrLen) (BitVec.ofNat 32 (leInt (k.take 4)))
      ((byteAt k 4).setWidth 32) 0 0 0 0)

end Sys2Proof.Machine
end

