-- ==== Sys2Proof/Machine/Frame.lean ====
section
/-! DEFINITION. The frame decoder and frame-type classifier (spec 43_frame_decoder.md): the function `decode_frame` and the
command DECODE_FRAME. -/

namespace Sys2Proof.Machine

/-- `HDR_LEN` (00_scope R8). -/
def hdrLen : Nat := 15
/-- `DATA_LEN_MAX` (00_scope R8). -/
def dataLenMax : Nat := 255
/-- `DATA_LEN_CLAMP` (00_scope R8). -/
def dataLenClamp : Nat := 8
/-- `NS_SCALE` (00_scope R8). -/
def nsScale : Nat := 10
/-- `ROUTE_TAG` (00_scope R8). -/
def routeTag : Word := 0x80000000

/-! The stream positions of the receive-frame header (43_frame_decoder R193), named as 92_eei_decisions D27 asks. -/

/-- KIND, stream bit 0. -/
def kindLsb : Nat := 0
/-- PORT, stream bits 8:2. -/
def portLsb : Nat := 2
/-- NS_RAW, stream bits 25:9. -/
def nsLsb : Nat := 9
/-- US_LOW, stream bits 57:26. -/
def uslLsb : Nat := 26
/-- US_HIGH, stream bits 89:58. It overlaps PROTO and ID bits 0 and 1 (90_conflicts C3). -/
def ushLsb : Nat := 58
/-- PROTO, stream bit 87. -/
def protoLsb : Nat := 87
/-- ID_STD, ID_EXT and ID_LIN, from stream bit 88. -/
def idLsb : Nat := 88
/-- FDF, stream bit 117. -/
def fdfLsb : Nat := 117
/-- RTR, stream bit 118. -/
def rtrLsb : Nat := 118
/-- IDE, stream bit 119. -/
def ideLsb : Nat := 119

/-- The bus of a frame (43_frame_decoder R200). -/
inductive Protocol where
  | can
  | lin
  deriving DecidableEq, Repr

/-- The numeric encoding of `protocol` (43_frame_decoder R203). -/
def Protocol.code : Protocol → Word
  | .can => 0
  | .lin => 1

/-- The five frame types (43_frame_decoder R202). -/
inductive FrameType where
  | canBase
  | canExt
  | canfdBase
  | canfdExt
  | linRx
  deriving DecidableEq, Repr

/-- The numeric encoding of `frame_type` (43_frame_decoder R203). -/
def FrameType.code : FrameType → Word
  | .canBase => 0
  | .canExt => 1
  | .canfdBase => 2
  | .canfdExt => 3
  | .linRx => 4

/-- The width of the ID of a frame type (43_frame_decoder R202, R208). -/
def FrameType.idWidth : FrameType → Nat
  | .canBase => 11
  | .canfdBase => 11
  | .canExt => 29
  | .canfdExt => 29
  | .linRx => 6

/-- The decision tree (43_frame_decoder R202). -/
def classify (protocol : Protocol) (ide fdf : Bool) : FrameType :=
  match protocol, ide, fdf with
  | .lin, _, _ => .linRx
  | .can, false, false => .canBase
  | .can, false, true => .canfdBase
  | .can, true, false => .canExt
  | .can, true, true => .canfdExt

/-- `route(ftype, id)` (43_frame_decoder R204). -/
def route (p : Params) (ftype : FrameType) (id : Word) : Word :=
  match ftype with
  | .canExt => id ||| routeTag
  | .canfdExt => if p.fdExtRouteTag then id ||| routeTag else id
  | .canBase => id
  | .canfdBase => id
  | .linRx => id

/-- `data_len` of a frame of `n` bytes (43_frame_decoder R206). -/
def frameDataLen (n : Nat) : Nat := if n - hdrLen > dataLenMax then dataLenClamp else n - hdrLen

/-- The decoded frame record (43_frame_decoder R191). -/
structure Frame where
  port : BitVec 7
  protocol : Protocol
  timestampNs : Word
  timestampUsLow : Word
  timestampUsHigh : Word
  frameType : FrameType
  id : Word
  routeId : Word
  fdf : Bool
  rtr : Bool
  ide : Bool
  data : List Byte
  dataLen : Nat
  deriving DecidableEq, Repr

/-- One bit of the stream as a flag. -/
def fieldFlag (bs : List Byte) (lo : Nat) : Bool := field bs lo 1 == 1

/-- The protocol of a header (43_frame_decoder R200). -/
def frameProtocol (bs : List Byte) : Protocol := if fieldFlag bs protoLsb then .lin else .can

/-- The frame type of a header (43_frame_decoder R202). -/
def frameTypeOf (bs : List Byte) : FrameType :=
  classify (frameProtocol bs) (fieldFlag bs ideLsb) (fieldFlag bs fdfLsb)

/-- `decode_frame(B)` (43_frame_decoder R191). `field` reads the 15 header bytes only, every field ending below stream
bit 120. -/
def decodeFrame (p : Params) (bs : List Byte) : Except ErrKind Frame :=
  if bs.length < hdrLen then .error .truncatedFrame
  else
    let hd := bs.take hdrLen
    if field hd kindLsb 1 ≠ 0 then .error .unsupportedFrameKind
    else
      let ftype := frameTypeOf hd
      let id := BitVec.ofNat 32 (field hd idLsb ftype.idWidth)
      .ok
        { port := BitVec.ofNat 7 (field hd portLsb 7)
          protocol := frameProtocol hd
          timestampNs := BitVec.ofNat 32 (field hd nsLsb 17 * nsScale)
          timestampUsLow := BitVec.ofNat 32 (field hd uslLsb 32)
          timestampUsHigh := BitVec.ofNat 32 (field hd ushLsb 32)
          frameType := ftype
          id := id
          routeId := route p ftype id
          fdf := fieldFlag hd fdfLsb
          rtr := fieldFlag hd rtrLsb
          ide := fieldFlag hd ideLsb
          data := (bs.drop hdrLen).take (frameDataLen bs.length)
          dataLen := frameDataLen bs.length }

/-- RES0 of a decoded frame (43_frame_decoder R205). -/
def Frame.res0 (f : Frame) : Word :=
  f.port.setWidth 32 ||| (f.protocol.code <<< 8) ||| (f.frameType.code <<< 16)
    ||| (flagWord f.fdf <<< 24) ||| (flagWord f.rtr <<< 25) ||| (flagWord f.ide <<< 26)

/-- DECODE_FRAME (43_frame_decoder R205). It reads byte 0 first, then the header, then only the data bytes it returns. -/
def execDecodeFrame (s : State) : Result :=
  s.withCount fun n =>
  if n < hdrLen then .next (s.raise .truncatedFrame) else
  s.withInput 0 1 fun b0 =>
  if (byteAt b0 0).getLsbD 0 then .next (s.raise .unsupportedFrameKind) else
  s.withInput 0 hdrLen fun hd =>
  s.withInput hdrLen (frameDataLen n) fun data =>
  match decodeFrame s.params (hd ++ data) with
  | .error e => .next (s.raise e)
  | .ok f =>
    .next ((s.writeObuf f.data).finishOk (BitVec.ofNat 32 f.dataLen) f.res0 f.id f.routeId f.timestampNs
      f.timestampUsLow f.timestampUsHigh)

end Sys2Proof.Machine
end

