-- ==== Sys2Proof/Machine/Packet.lean ====
section
/-! DEFINITION. The packet framer (spec 41_packet_framer.md): the functions `make_packet` and `parse_packet`, and the
commands MAKE_PACKET and PARSE_PACKET. -/

namespace Sys2Proof.Machine

/-- `PREAMBLE` (00_scope R8, 41_packet_framer R140). -/
def preamble : List Byte := [0xFF, 0x55, 0xAA]

/-- `PKT_OVERHEAD` (00_scope R8): the bytes of a packet beside its payload. -/
def pktOverhead : Nat := 11

/-- The bytes before the payload: preamble, command pair, length (41_packet_framer R140). -/
def pktHeader : Nat := 9

/-- `MAX_PAYLOAD` (00_scope R8, 41_packet_framer R143). -/
def maxPayload : Nat := 65535

/-- A parsed packet (41_packet_framer R156). -/
structure Packet where
  cmd1 : Half
  cmd2 : Half
  payload : List Byte
  deriving DecidableEq, Repr

/-- The bytes of a packet before its CRC (41_packet_framer R140). -/
def packetBody (cmd1 cmd2 : Half) (p : List Byte) : List Byte :=
  preamble ++ be16 cmd1 ++ be16 cmd2 ++ be16 (BitVec.ofNat 16 p.length) ++ p

/-- `make_packet(cmd1, cmd2, P)` (41_packet_framer R141). -/
def makePacket (cmd1 cmd2 : Half) (p : List Byte) : Except ErrKind (List Byte) :=
  if p.length > maxPayload then .error .invalidArgument
  else .ok (packetBody cmd1 cmd2 p ++ be16 (crc16 (packetBody cmd1 cmd2 p) crcInitFresh))

/-- The first three bytes are the preamble (41_packet_framer R152). -/
def hasPreamble (bs : List Byte) : Bool := bs.take 3 == preamble

/-- `L`, the declared payload length: bytes 7 and 8 (41_packet_framer R150). -/
def declaredLength (bs : List Byte) : Nat := (be16At bs 7).toNat

/-- The CRC recomputed over bytes `[0, 9+L)` (41_packet_framer R154). -/
def packetCrc (bs : List Byte) (l : Nat) : Half := crc16 (bs.take (pktHeader + l)) crcInitFresh

/-- `parse_packet(B)` (41_packet_framer R150), its checks in the order of R255. -/
def parsePacket (bs : List Byte) : Except ErrKind Packet :=
  if bs.length < pktOverhead then .error .truncatedPacket
  else if !hasPreamble bs then .error .framingError
  else if declaredLength bs + pktOverhead > bs.length then .error .truncatedPacket
  else if packetCrc bs (declaredLength bs) ≠ be16At bs (pktHeader + declaredLength bs) then .error .crcMismatch
  else .ok { cmd1 := be16At bs 3, cmd2 := be16At bs 5, payload := (bs.drop pktHeader).take (declaredLength bs) }

/-- MAKE_PACKET (41_packet_framer R145). -/
def execMakePacket (s : State) : Result :=
  s.withCount fun n =>
  if n > maxPayload then .next (s.raise .invalidArgument) else
  s.withInput 0 n fun p =>
  match makePacket s.cmd1 s.cmd2 p with
  | .error e => .next (s.raise e)
  | .ok k =>
    .next ((s.writeObuf k).finishOk (BitVec.ofNat 32 (n + pktOverhead))
      ((be16At k (n + pktHeader)).setWidth 32) 0 0 0 0 0)

/-- PARSE_PACKET (41_packet_framer R157). It reads the nine header bytes, and the rest only after the length check
(R158 item 8). -/
def execParsePacket (s : State) : Result :=
  s.withCount fun n =>
  if n < pktOverhead then .next (s.raise .truncatedPacket) else
  s.withInput 0 pktHeader fun hd =>
  if !hasPreamble hd then .next (s.raise .framingError) else
  let l := declaredLength hd
  if l + pktOverhead > n then .next (s.raise .truncatedPacket) else
  s.withInput 0 (l + pktOverhead) fun bs =>
  let c := packetCrc bs l
  if c ≠ be16At bs (pktHeader + l) then .next (s.raise .crcMismatch) else
  .next ((s.writeObuf ((bs.drop pktHeader).take l)).finishOk (BitVec.ofNat 32 l)
    ((be16At hd 3).setWidth 32) ((be16At hd 5).setWidth 32) (BitVec.ofNat 32 l) (c.setWidth 32) 0 0)

end Sys2Proof.Machine
end

