-- ==== Sys2Proof/Machine/Dispatch.lean ====
section
/-! DEFINITION. The dispatch of a decoded command to its meaning (44_control R234), one arm per constructor. -/

namespace Sys2Proof.Machine

def exec (i : Instr) (s : State) : Host.Outcome State Fault Refusal :=
  match i with
  | .nop => Sys2Proof.Machine.execNop s
  | .crc16 => Sys2Proof.Machine.execCrc16 s
  | .makePacket => Sys2Proof.Machine.execMakePacket s
  | .parsePacket => Sys2Proof.Machine.execParsePacket s
  | .encodeCanHeader => Sys2Proof.Machine.execEncodeCanHeader s
  | .decodeFrame => Sys2Proof.Machine.execDecodeFrame s

end Sys2Proof.Machine
end

