-- ==== Sys2Proof/Machine/Engine.lean ====
section
/-! DEFINITION. The turns of the agents: the engine's atomic step (44_control R234), and which agent moves next. -/

namespace Sys2Proof.Machine

/-- `dispatch(PEND)` (44_control R234). -/
def perform (s : State) : Result :=
  match decode s.pend with
  | .ok i => exec i s
  | .error _ => illegalCommand s

/-- A model records the fault of the engine's read, and the command changes no state (60_exceptions R262). -/
def recordFault (s : State) (r : Result) : Result :=
  match r with
  | .next t => .next t
  | .fault f => .next (s.withFaults [f])
  | .refused q => .refused q

/-- The engine's turn: one enabled step when busy, none when idle (44_control R234). -/
def engineTurn (s : State) : Result :=
  match s.engState with
  | .busy => recordFault s (perform s)
  | .idle => .next s

/-- The turn of a `wait` statement: a busy engine steps once the STATUS reads before its step are spent. -/
def pollTurn (s : State) (polls : Nat) (es : List Input) : Result :=
  match s.engState, polls with
  | .busy, 0 => engineTurn s
  | _, _ => .next (pollEvent (s.withInputs es) polls)

/-- One step with an empty fault record: the next event, or the engine's turn where none is left (DESIGN CHOICE, log 5). -/
def inputTurn (s : State) : Result :=
  match s.inputs with
  | [] => engineTurn s
  | .engine :: es => engineTurn (s.withInputs es)
  | .read off width :: es => .next (readEvent (s.withInputs es) off width)
  | .write off width v :: es => .next (writeEvent (s.withInputs es) off width v)
  | .poll polls :: es => pollTurn s polls es
  | .reset :: es => .next (s.withInputs es).platformReset

/-- One step with faults recorded, `f` the first of them: reset begins a new run, and nothing else goes on (60_exceptions
R256, R263; log 7). -/
def faultedTurn (s : State) (f : Fault) : Result :=
  match s.inputs with
  | .reset :: es => .next (s.withInputs es).platformReset
  | _ => .fault f

/-- One step of the block and its host. -/
def stepOnce (s : State) : Result :=
  match s.faultRecord with
  | f :: _ => faultedTurn s f
  | [] => inputTurn s

/-- `w` started as the pending command word, the engine's turn next, no fault recorded. -/
def State.withPending (s : State) (w : Word) : State :=
  { s.start w with inputs := .engine :: s.inputs, faultRecord := [] }

end Sys2Proof.Machine
end

