-- ==== Sys2Proof/Machine/Step.lean ====
section
/-! DEFINITION. One step of the machine, and the state whose next step performs a given command word. -/

namespace Sys2Proof.Machine

/-- One step: an access of the host, the engine's atomic step, or reset (20_memory R75). -/
def step (s : State) : Host.Outcome State Fault Refusal := stepOnce s

/-- `s` with the command word `w` (its low `nbits` bits) started, so that the next step performs it. RMCORE fetches no
instructions (10_state R21): its commands come as CMD writes (log 12). -/
def State.withFetchWord (s : State) (nbits w : Nat) : State := s.withPending (tableWord nbits w)

end Sys2Proof.Machine
end

