-- ==== Sys2Proof/Safety.lean ====
section
/-! DEFINITION. The terms the claims use: a good run, the bytes a command reads, what a completion leaves, and the invariant
of the machine. -/

namespace Sys2Proof.Machine

/-- A good state of a run: no fault recorded (00_scope R15, 60_exceptions R263). -/
def State.Good (s : State) : Prop := s.faultRecord = []

/-! ## Bytes in memory -/

/-- From offset `a` on, the memory holds exactly the bytes `bs`. -/
def Memory.Holds (m : Memory) (a : Nat) (bs : List Byte) : Prop := ∀ k, k < bs.length → m.read (a + k) = bs[k]?

/-- The first `n` bytes were written since reset. -/
def Memory.Written (m : Memory) (n : Nat) : Prop := ∀ k, k < n → (m.read k).isSome = true

/-- Two memories agree on their first `n` bytes. -/
def Memory.AgreeBelow (m m' : Memory) (n : Nat) : Prop := ∀ k, k < n → m.read k = m'.read k

/-- A byte of IBUF, 0 where nothing was written: used only to say how far a command reads. -/
def State.peek (s : State) (k : Nat) : Byte := (s.ibuf.read k).getD 0

/-- The length PARSE_PACKET finds at bytes 7 and 8. -/
def State.peekLength (s : State) : Nat := 256 * (s.peek 7).toNat + (s.peek 8).toNat

/-- The bytes at offsets 0 to 2 are the preamble. -/
def State.peekPreamble (s : State) : Bool := s.peek 0 == 0xFF && s.peek 1 == 0x55 && s.peek 2 == 0xAA

/-- How many bytes of IBUF, from offset 0 on, a command reads (20_memory R66; 40_crc16 R131, 41_packet_framer R145 and
R157, 43_frame_decoder R205). A command with an error before its first read reads none. -/
def inputExtent (i : Instr) (s : State) : Nat :=
  let n := s.inLen.toNat
  match i with
  | .nop => 0
  | .encodeCanHeader => 0
  | .crc16 => if n > s.params.bufBytes then 0 else n
  | .makePacket => if n > s.params.bufBytes ∨ n > 65535 then 0 else n
  | .parsePacket =>
    if n > s.params.bufBytes ∨ n < 11 then 0
    else if !s.peekPreamble ∨ s.peekLength + 11 > n then 9
    else s.peekLength + 11
  | .decodeFrame =>
    if n > s.params.bufBytes ∨ n < 15 then 0
    else if (s.peek 0).getLsbD 0 then 1
    else 15 + (if n - 15 > 255 then 8 else n - 15)

/-! ## Completions -/

/-- `t` is a successful completion with these results (44_control R236). -/
structure Succeeds (t : State) (outLen r0 r1 r2 r3 r4 r5 : Word) : Prop where
  status : t.status = 0x00000002
  engState : t.engState = .idle
  outLen : t.outLen = outLen
  res0 : t.res0 = r0
  res1 : t.res1 = r1
  res2 : t.res2 = r2
  res3 : t.res3 = r3
  res4 : t.res4 = r4
  res5 : t.res5 = r5

/-- What no command changes: CMD, PEND, IN_LEN, ARG0, ARG1, IBUF, CAP, and everything outside the block. -/
structure InputsKept (s t : State) : Prop where
  cmd : t.cmd = s.cmd
  pend : t.pend = s.pend
  inLen : t.inLen = s.inLen
  arg0 : t.arg0 = s.arg0
  arg1 : t.arg1 = s.arg1
  ibuf : t.ibuf = s.ibuf
  params : t.params = s.params
  window : t.window = s.window
  faultRecord : t.faultRecord = s.faultRecord
  inputs : t.inputs = s.inputs
  reads : t.reads = s.reads

/-- `t` is the error completion of `s` with this error code (60_exceptions R253): the results are 0, STATUS is
`6 | code << 4`, no byte of OBUF and no input changes. -/
structure Raises (s t : State) (code : Nat) : Prop where
  status : t.status = BitVec.ofNat 32 (6 + 16 * code)
  engState : t.engState = .idle
  outLen : t.outLen = 0
  res0 : t.res0 = 0
  res1 : t.res1 = 0
  res2 : t.res2 = 0
  res3 : t.res3 = 0
  res4 : t.res4 = 0
  res5 : t.res5 = 0
  obuf : ∀ a, t.obuf.read a = s.obuf.read a
  kept : InputsKept s t

/-- OBUF after a command that wrote the bytes `k` from offset 0 on: those bytes, and every other byte as before
(20_memory R66). -/
structure OutputIs (s t : State) (k : List Byte) : Prop where
  written : t.obuf.Holds 0 k
  rest : ∀ a, k.length ≤ a → t.obuf.read a = s.obuf.read a

/-- Two completions with the same STATUS, OUT_LEN, RES0..RES5 and output bytes (44_control R237). -/
structure SameCompletion (t t' : State) : Prop where
  status : t'.status = t.status
  engState : t'.engState = t.engState
  outLen : t'.outLen = t.outLen
  res0 : t'.res0 = t.res0
  res1 : t'.res1 = t.res1
  res2 : t'.res2 = t.res2
  res3 : t'.res3 = t.res3
  res4 : t'.res4 = t.res4
  res5 : t'.res5 = t.res5
  output : t.obuf.AgreeBelow t'.obuf t.outLen.toNat

/-! ## The invariant -/

/-- What every state of a run satisfies. -/
structure State.Inv (s : State) : Prop where
  /-- Both memories are in canonical form. -/
  ibufWf : s.ibuf.wf = true
  obufWf : s.obuf.wf = true
  /-- Only offsets below BUF_BYTES hold a byte (20_memory R60). -/
  ibufBound : ∀ a, (s.ibuf.read a).isSome = true → a < s.params.bufBytes
  obufBound : ∀ a, (s.obuf.read a).isSome = true → a < s.params.bufBytes
  /-- STATUS holds a legal combination (10_state R24). -/
  status : legalStatus s.status = true
  /-- `ENG_STATE = BUSY` exactly when STATUS.BUSY is 1 (10_state R21). -/
  busy : s.engState = .busy ↔ busyBit s.status = true
  /-- A command in flight has the busy window open (70_reset_and_hazards R290). -/
  window : s.engState = .busy → s.window = true
  /-- PEND is the last written CMD word (44_control R231). -/
  pend : s.pend = s.cmd
  /-- An error leaves no result (60_exceptions R253). -/
  noResult : errBit s.status = true →
    s.outLen = 0 ∧ s.res0 = 0 ∧ s.res1 = 0 ∧ s.res2 = 0 ∧ s.res3 = 0 ∧ s.res4 = 0 ∧ s.res5 = 0
  /-- OUT_LEN is at most 65546 (10_state R28), and the bytes it counts were written. -/
  outLen : s.outLen.toNat ≤ 65546
  output : s.obuf.Written s.outLen.toNat

end Sys2Proof.Machine
end

