-- ==== Sys2Proof/Certificates/Slice0/Obligations.lean ====
section
/-! DEFINITION. The statements for the provers. Each docstring names the rule of spec/ it comes from. -/

open Sys2Proof
open Sys2Proof.Machine

/-! ## Decoding -/

/-- 30_encoding R91: a command word selects a command only when it is exactly the command's match value. -/
def Obligations.DecodeIsExactlyTheOpcodeMap : Prop :=
  ∀ (w : Word) (i : Instr), decode w = .ok i ↔
    (w = 0x00000000 ∧ i = .nop) ∨ (w = 0x00000001 ∧ i = .crc16) ∨ (w = 0x00000002 ∧ i = .makePacket) ∨
      (w = 0x00000003 ∧ i = .parsePacket) ∨ (w = 0x00000004 ∧ i = .encodeCanHeader) ∨
      (w = 0x00000005 ∧ i = .decodeFrame)

/-- Decode and encode agree on every word (30_encoding R90, R91): the word of a well-formed command decodes to it, and a
word that decodes to a command is that command's word, so no other word selects it. -/
def Obligations.DecodeAndEncodeAgree : Prop :=
  (∀ i : Instr, i.wellFormed = true → decode (encode i) = .ok i) ∧
    ∀ (w : Word) (i : Instr), decode w = .ok i → encode i = w

/-- A few command words, written out from the encoding (30_encoding R90, R92; 95_test_vectors N2, N4, N5). -/
def Obligations.SampleWordsDecode : Prop :=
  decode 0b00000000000000000000000000000001#32 = .ok .crc16 ∧
    decode 0b00000000000000000000000000000101#32 = .ok .decodeFrame ∧
    decode 0b00000000000000000000000000000110#32 = .error .reservedOp ∧
    decode 0b00000000000000000000000000001001#32 = .error .reservedBits ∧
    decode 0b10000000000000000000000000000000#32 = .error .reservedBits

/-! ## The command lifecycle -/

/-- A step runs the decoded command (44_control R234): with a command in flight and no fault recorded, the engine's turn is
`exec` of the decoded PEND. The turn comes where no event is pending, at an `engine` event, and at a `wait` whose STATUS
reads are spent (log 5). A fault of the command is recorded and changes nothing else (log 7). -/
def Obligations.StepRunsTheDecodedCommand : Prop :=
  ∀ (s : State) (i : Instr), decode s.pend = .ok i → s.engState = .busy → s.faultRecord = [] →
    (s.inputs = [] → step s = recordFault s (exec i s)) ∧
    (∀ es, s.inputs = .engine :: es → step s = recordFault (s.withInputs es) (exec i (s.withInputs es))) ∧
    (∀ es, s.inputs = .poll 0 :: es → step s = recordFault s (exec i s)) ∧
    (∀ t u : State, recordFault u (.next t) = .next t) ∧
    ∀ (u : State) (f : Fault), recordFault u (.fault f) = .next { u with faultRecord := [f] }

/-- 44_control R233: performing a started word with bits 31:3 not all zero or with OP 6 or 7 raises IllegalCommand (code 8),
whatever the operands; CMD reads back the illegal word. -/
def Obligations.IllegalWordRaisesIllegalCommand : Prop :=
  ∀ s : State,
    s.pend.extractLsb' 3 29 ≠ 0 ∨ s.pend.extractLsb' 0 3 = 6 ∨ s.pend.extractLsb' 0 3 = 7 →
    ∃ t, perform s = .next t ∧ Raises s t 8 ∧ t.status = 0x00000086 ∧
      (s.pend = s.cmd → hostRead { t with window := false } 0x00 32 = .ok s.pend)

/-- A step performs an illegal word as it does a command: at the engine's turn, with no command selected by PEND, the step is
the IllegalCommand completion (44_control R234). When that turn comes is the model's input (log 5). -/
def Obligations.StepPerformsAnIllegalWord : Prop :=
  ∀ (s : State) (e : DecodeError), decode s.pend = .error e → s.engState = .busy → s.faultRecord = [] →
    (s.inputs = [] → ∃ t, step s = .next t ∧ Raises s t 8) ∧
    (∀ es, s.inputs = .engine :: es → ∃ t, step s = .next t ∧ Raises (s.withInputs es) t 8) ∧
    ∀ es, s.inputs = .poll 0 :: es → ∃ t, step s = .next t ∧ Raises s t 8

/-- A host access at the head of the pending events is what the step performs (20_memory R75): a write with the result of
`hostWrite`, a read with the value of `hostRead`, which the model keeps (log 6); a STATUS read that returns BUSY = 0 closes
the busy window (70_reset_and_hazards R290, the bit `window` of log 8). The faults of an access are recorded and nothing else
changes (log 7). The order of the events is the model's input (log 5). -/
def Obligations.AnEventRunsItsAccess : Prop :=
  ∀ (s : State) (off : Addr) (width : Nat) (v : Word) (es : List Input), s.faultRecord = [] →
    (s.inputs = .write off width v :: es →
      (∀ t, hostWrite (s.withInputs es) off width v = .ok t → step s = .next t) ∧
      ∀ fs, hostWrite (s.withInputs es) off width v = .error fs →
        step s = .next { s with inputs := es, faultRecord := fs }) ∧
    (s.inputs = .read off width :: es →
      (∀ r, hostRead (s.withInputs es) off width = .ok r →
        step s = .next { s with inputs := es, reads := r :: s.reads,
                                window := if off = 0x04 ∧ busyBit r = false then false else s.window }) ∧
      ∀ fs, hostRead (s.withInputs es) off width = .error fs →
        step s = .next { s with inputs := es, faultRecord := fs })

/-- A 32-bit host write of CMD with no command outstanding latches the word and starts the command (44_control R231); the
results and OBUF keep their old values. While BUSY = 1, or until the host has seen BUSY = 0 (the busy window of
70_reset_and_hazards R290, followed where R231 names BUSY alone: log 8), it is a host hazard and starts nothing. -/
def Obligations.CmdWriteStartsACommand : Prop :=
  ∀ (s : State) (w : Word),
    (s.window = false → busyBit s.status = false →
      hostWrite s 0x00000 32 w =
        .ok { s with cmd := w, pend := w, status := 0x00000001, engState := .busy, window := true }) ∧
    (s.window = true ∨ busyBit s.status = true → hostWrite s 0x00000 32 w = .error [.hostHazard])

/-- A started command completes (44_control R235) after finitely many steps of host and engine, for every sequence of pending
events without a reset (log 4, log 5): some step leaves the engine idle with DONE = 1, or a fault is recorded on the way. (A
reset abandons the command: ResetTakesEveryResetValue.) -/
def Obligations.StartedCommandCompletes : Prop :=
  ∀ s : State, s.engState = .busy → s.faultRecord = [] → Input.reset ∉ s.inputs →
    ∃ (n : Nat) (t : State), core.run n s = .next t ∧
      (t.engState = .idle ∧ doneBit t.status = true ∨ t.faultRecord ≠ [])

/-- The engine has no step when idle, and keeps every register and buffer (44_control R234, 60_exceptions R276). The turns
are those of the model's events (log 5). -/
def Obligations.IdleEngineKeepsItsState : Prop :=
  ∀ s : State, s.engState = .idle → s.faultRecord = [] →
    (s.inputs = [] → step s = .next s) ∧
      ∀ es, s.inputs = .engine :: es → step s = .next { s with inputs := es }

/-! ## What every command keeps -/

/-- 70_reset_and_hazards R285: no command writes IBUF, IN_LEN, ARG0 or ARG1; nor CMD, PEND or CAP, nor the busy window, the
fault record or the host's events. -/
def Obligations.CommandsKeepTheirInputs : Prop :=
  ∀ (i : Instr) (s t : State), exec i s = .next t →
    t.ibuf = s.ibuf ∧ t.inLen = s.inLen ∧ t.arg0 = s.arg0 ∧ t.arg1 = s.arg1 ∧ InputsKept s t

/-- 70_reset_and_hazards R293: a command leaves every OBUF byte at or beyond the new OUT_LEN unchanged; and the bytes below
it are written (20_memory R66). -/
def Obligations.OutputBeyondOutLenIsStale : Prop :=
  ∀ (i : Instr) (s t : State), exec i s = .next t →
    (∀ a, t.outLen.toNat ≤ a → t.obuf.read a = s.obuf.read a) ∧ t.obuf.Written t.outLen.toNat

/-- Completions are precise (60_exceptions R256, R253): a command completes fully (STATUS 2) or raises an error with a code from 1 to 8, which changes
nothing but STATUS, OUT_LEN and RES0..RES5. -/
def Obligations.EveryCompletionIsPrecise : Prop :=
  ∀ (i : Instr) (s t : State), exec i s = .next t →
    (t.status = 0x00000002 ∧ t.engState = .idle) ∨ ∃ code, 1 ≤ code ∧ code ≤ 8 ∧ Raises s t code

/-- The engine's side of 60_exceptions R262: a command completes exactly when every IBUF byte it reads was written since
reset, and otherwise faults with UninitialisedRead. Which bytes it reads (`inputExtent`) are those its own rule names
(40_crc16 R131, 41_packet_framer R145 and R157, 43_frame_decoder R205); that PARSE_PACKET and DECODE_FRAME read no more,
against the general sentence of 20_memory R66, is the model's choice (log 3). -/
def Obligations.CommandCompletesExactlyWhenItsInputIsWritten : Prop :=
  ∀ (i : Instr) (s : State),
    (s.ibuf.Written (inputExtent i s) → ∃ t, exec i s = .next t) ∧
      (¬ s.ibuf.Written (inputExtent i s) → exec i s = .fault .uninitialisedRead)

/-- The completion of a command depends only on PEND, IN_LEN, ARG0, ARG1 and the IBUF bytes the command reads (44_control
R237; which bytes those are, `inputExtent`, is the model's choice of log 3): two blocks with the same parameters that agree on these complete alike, whatever else they hold. -/
def Obligations.CompletionDependsOnlyOnItsInputs : Prop :=
  ∀ s s' t : State, s'.params = s.params → s'.pend = s.pend → s'.inLen = s.inLen → s'.arg0 = s.arg0 →
    s'.arg1 = s.arg1 → (∀ i, decode s.pend = .ok i → s.ibuf.AgreeBelow s'.ibuf (inputExtent i s)) →
    perform s = .next t → ∃ t', perform s' = .next t' ∧ SameCompletion t t'

/-! ## NOP -/

/-- 44_control R232: NOP completes with every result 0, OBUF and all inputs unchanged. -/
def Obligations.NopResult : Prop :=
  ∀ s : State, ∃ t, exec .nop s = .next t ∧ Succeeds t 0 0 0 0 0 0 0 ∧ InputsKept s t ∧
    ∀ a, t.obuf.read a = s.obuf.read a

/-! ## CRC16 -/

/-- 40_crc16 R131: the CRC of IBUF[0..N) from init = ARG0[15:0] goes to RES0; IN_LEN above BUF_BYTES raises
InvalidArgument. OBUF is not written. -/
def Obligations.Crc16Result : Prop :=
  ∀ s : State,
    (s.params.bufBytes < s.inLen.toNat → ∃ t, exec .crc16 s = .next t ∧ Raises s t 1) ∧
    ∀ bs : List Byte, s.inLen.toNat ≤ s.params.bufBytes → bs.length = s.inLen.toNat → s.ibuf.Holds 0 bs →
      ∃ t, exec .crc16 s = .next t ∧
        Succeeds t 0 ((crc16 bs (s.arg0.extractLsb' 0 16)).setWidth 32) 0 0 0 0 0 ∧ InputsKept s t ∧
        ∀ a, t.obuf.read a = s.obuf.read a

/-- 40_crc16 R123: the CRC of no byte is init unchanged; with IN_LEN = 0, RES0 is init, whatever IBUF holds. -/
def Obligations.EmptyCrcReturnsInit : Prop :=
  (∀ init : Half, crc16 [] init = init) ∧
    ∀ s : State, s.inLen = 0 →
      ∃ t, exec .crc16 s = .next t ∧ t.status = 0x00000002 ∧ t.res0.toNat = s.arg0.toNat % 65536

/-- 40_crc16 R133, R125: two CRC16 commands chained through ARG0 and RES0 give the CRC of the joined bytes. -/
def Obligations.Crc16ChainsThroughTheHost : Prop :=
  ∀ (s u t : State) (as cs : List Byte),
    s.ibuf.Holds 0 as → s.inLen.toNat = as.length → as.length ≤ s.params.bufBytes → exec .crc16 s = .next t →
    u.ibuf.Holds 0 cs → u.inLen.toNat = cs.length → cs.length ≤ u.params.bufBytes → u.arg0 = t.res0 →
    ∃ v, exec .crc16 u = .next v ∧ v.res0 = (crc16 (as ++ cs) (s.arg0.extractLsb' 0 16)).setWidth 32

/-- The table-driven CRC of 40_crc16 R122, with the table of log 1, equals the bit-serial division by 0x1021 of R121, for every byte sequence and
every initial value: each byte is added into the high byte and eight shifts follow. -/
def Obligations.TableCrcEqualsBitSerialCrc : Prop :=
  ∀ (bs : List Byte) (init : Half),
    crc16 bs init = bs.foldl
      (fun c b => (fun x => if x.getLsbD 15 then (x <<< 1) ^^^ (0x1021 : Half) else x <<< 1)^[8]
        (c ^^^ ((b.setWidth 16 : Half) <<< 8))) init

/-! ## Packets -/

/-- 41_packet_framer R140: the bytes of a packet by offset. -/
def Obligations.PacketLayout : Prop :=
  ∀ (c1 c2 : Half) (p k : List Byte), makePacket c1 c2 p = .ok k →
    p.length ≤ 65535 ∧ k.length = p.length + 11 ∧
    k[0]? = some 0xFF ∧ k[1]? = some 0x55 ∧ k[2]? = some 0xAA ∧
    k[3]? = some (c1.extractLsb' 8 8) ∧ k[4]? = some (c1.extractLsb' 0 8) ∧
    k[5]? = some (c2.extractLsb' 8 8) ∧ k[6]? = some (c2.extractLsb' 0 8) ∧
    k[7]? = some (BitVec.ofNat 8 (p.length / 256)) ∧ k[8]? = some (BitVec.ofNat 8 p.length) ∧
    (∀ j, j < p.length → k[9 + j]? = p[j]?) ∧
    k[9 + p.length]? = some ((crc16 (k.take (9 + p.length)) 0).extractLsb' 8 8) ∧
    k[10 + p.length]? = some ((crc16 (k.take (9 + p.length)) 0).extractLsb' 0 8)

/-- 41_packet_framer R145: MAKE_PACKET. IN_LEN above BUF_BYTES or above 65535 raises InvalidArgument; else OBUF holds the
packet of the payload IBUF[0..N), OUT_LEN is N + 11 and RES0 the appended CRC. -/
def Obligations.MakePacketResult : Prop :=
  ∀ s : State,
    (s.params.bufBytes < s.inLen.toNat ∨ 65535 < s.inLen.toNat →
      ∃ t, exec .makePacket s = .next t ∧ Raises s t 1) ∧
    ∀ p : List Byte, s.inLen.toNat ≤ s.params.bufBytes → s.inLen.toNat ≤ 65535 → p.length = s.inLen.toNat →
      s.ibuf.Holds 0 p →
      ∃ t k, exec .makePacket s = .next t ∧
        makePacket (s.arg0.extractLsb' 0 16) (s.arg1.extractLsb' 0 16) p = .ok k ∧
        Succeeds t (BitVec.ofNat 32 (p.length + 11)) ((crc16 (k.take (9 + p.length)) 0).setWidth 32) 0 0 0 0 0 ∧
        OutputIs s t k ∧ InputsKept s t

/-- 41_packet_framer R157: PARSE_PACKET, its checks in the order of 60_exceptions R255. Each clause asks only for the bytes
read so far: nine header bytes, then the `L + 11` bytes of the packet. -/
def Obligations.ParsePacketResult : Prop :=
  ∀ s : State,
    (s.params.bufBytes < s.inLen.toNat → ∃ t, exec .parsePacket s = .next t ∧ Raises s t 1) ∧
    (s.inLen.toNat < 11 → ∃ t, exec .parsePacket s = .next t ∧ Raises s t 3) ∧
    ∀ hd : List Byte, 11 ≤ s.inLen.toNat → s.inLen.toNat ≤ s.params.bufBytes → hd.length = 9 → s.ibuf.Holds 0 hd →
      (hd.take 3 ≠ [0xFF, 0x55, 0xAA] → ∃ t, exec .parsePacket s = .next t ∧ Raises s t 2) ∧
      ∀ l : Nat, hd.take 3 = [0xFF, 0x55, 0xAA] → l = 256 * (hd.getD 7 0).toNat + (hd.getD 8 0).toNat →
        (s.inLen.toNat < l + 11 → ∃ t, exec .parsePacket s = .next t ∧ Raises s t 3) ∧
        ∀ bs : List Byte, l + 11 ≤ s.inLen.toNat → bs.length = l + 11 → s.ibuf.Holds 0 bs →
          ((crc16 (bs.take (9 + l)) 0).toNat ≠ 256 * (bs.getD (9 + l) 0).toNat + (bs.getD (10 + l) 0).toNat →
            ∃ t, exec .parsePacket s = .next t ∧ Raises s t 5) ∧
          ((crc16 (bs.take (9 + l)) 0).toNat = 256 * (bs.getD (9 + l) 0).toNat + (bs.getD (10 + l) 0).toNat →
            ∃ t, exec .parsePacket s = .next t ∧
              Succeeds t (BitVec.ofNat 32 l)
                (BitVec.ofNat 32 (256 * (hd.getD 3 0).toNat + (hd.getD 4 0).toNat))
                (BitVec.ofNat 32 (256 * (hd.getD 5 0).toNat + (hd.getD 6 0).toNat))
                (BitVec.ofNat 32 l) ((crc16 (bs.take (9 + l)) 0).setWidth 32) 0 0 ∧
              OutputIs s t ((bs.drop 9).take l) ∧ InputsKept s t)

/-- PARSE_PACKET performs the pure function `parse_packet` (41_packet_framer R150, R157): on a buffer whose every byte was
written, the command raises the function's error or returns its packet. -/
def Obligations.ParsePacketPerformsTheFunction : Prop :=
  ∀ (s : State) (bs : List Byte), s.inLen.toNat = bs.length → bs.length ≤ s.params.bufBytes → s.ibuf.Holds 0 bs →
    (∀ e, parsePacket bs = .error e → ∃ t, exec .parsePacket s = .next t ∧ Raises s t e.code.toNat) ∧
    ∀ q, parsePacket bs = .ok q → ∃ t, exec .parsePacket s = .next t ∧ t.status = 0x00000002 ∧
      t.res0 = q.cmd1.setWidth 32 ∧ t.res1 = q.cmd2.setWidth 32 ∧ t.outLen.toNat = q.payload.length ∧
      OutputIs s t q.payload

/-- Bytes beyond the packet are not read and do not matter (41_packet_framer R155). Two states that agree on the first
`L + 11` bytes of IBUF, with any IN_LEN that covers them, complete alike. -/
def Obligations.BytesBeyondThePacketAreIgnored : Prop :=
  ∀ (s s' t : State) (l : Nat) (b7 b8 : Byte), s'.params = s.params → s.ibuf.AgreeBelow s'.ibuf (l + 11) →
    s.ibuf.read 7 = some b7 → s.ibuf.read 8 = some b8 → l = 256 * b7.toNat + b8.toNat →
    l + 11 ≤ s.inLen.toNat → s.inLen.toNat ≤ s.params.bufBytes →
    l + 11 ≤ s'.inLen.toNat → s'.inLen.toNat ≤ s'.params.bufBytes →
    exec .parsePacket s = .next t → ∃ t', exec .parsePacket s' = .next t' ∧ SameCompletion t t'

/-- 41_packet_framer R159, the round trip: parsing a made packet gives its parts; and through the machine, after MAKE_PACKET
succeeds, a state whose IBUF holds OBUF[0..OUT_LEN) with IN_LEN = OUT_LEN parses to the original payload, cmd1 and cmd2. -/
def Obligations.PacketRoundTrip : Prop :=
  (∀ (c1 c2 : Half) (p : List Byte), p.length ≤ 65535 →
    ∃ k, makePacket c1 c2 p = .ok k ∧ parsePacket k = .ok { cmd1 := c1, cmd2 := c2, payload := p }) ∧
  ∀ (s t u : State) (p k : List Byte), exec .makePacket s = .next t → t.status = 0x00000002 →
    p.length = s.inLen.toNat → s.ibuf.Holds 0 p → k.length = t.outLen.toNat → t.obuf.Holds 0 k →
    u.ibuf.Holds 0 k → u.inLen = t.outLen →
    ∃ v, exec .parsePacket u = .next v ∧ v.status = 0x00000002 ∧ v.outLen = s.inLen ∧ v.obuf.Holds 0 p ∧
      v.res0.toNat = s.arg0.toNat % 65536 ∧ v.res1.toNat = s.arg1.toNat % 65536

/-- 41_packet_framer R160: what PARSE_PACKET makes of a well-formed packet of `n = L + 11` bytes with one bit (bit `j` of byte
`k`) flipped. A flip in cmd1, cmd2, the payload or the CRC field gives CrcMismatch; in the preamble, FramingError; in the
length field, TruncatedPacket when the new length does not fit, and otherwise CrcMismatch or, for some packets, success. -/
def Obligations.TamperDetection : Prop :=
  (∀ (c1 c2 : Half) (p b : List Byte) (k j : Nat) (s : State), makePacket c1 c2 p = .ok b → k < b.length → j < 8 →
    let flipped := b.set k (b.getD k 0 ^^^ BitVec.twoPow 8 j)
    let l' := 256 * (flipped.getD 7 0).toNat + (flipped.getD 8 0).toNat
    s.inLen.toNat = b.length → s.ibuf.Holds 0 flipped →
    ((3 ≤ k ∧ k < 7 ∨ 9 ≤ k) → ∃ t, exec .parsePacket s = .next t ∧ Raises s t 5) ∧
    (k < 3 → ∃ t, exec .parsePacket s = .next t ∧ Raises s t 2) ∧
    (7 ≤ k ∧ k < 9 → b.length < l' + 11 → ∃ t, exec .parsePacket s = .next t ∧ Raises s t 3) ∧
    (7 ≤ k ∧ k < 9 → l' + 11 ≤ b.length →
      ∃ t, exec .parsePacket s = .next t ∧ (Raises s t 5 ∨ t.status = 0x00000002))) ∧
  ∃ (c1 c2 : Half) (p b : List Byte) (k j : Nat) (s t : State), makePacket c1 c2 p = .ok b ∧ 7 ≤ k ∧ k < 9 ∧ j < 8 ∧
    s.inLen.toNat = b.length ∧ s.ibuf.Holds 0 (b.set k (b.getD k 0 ^^^ BitVec.twoPow 8 j)) ∧
    exec .parsePacket s = .next t ∧ t.status = 0x00000002

/-! ## The CAN transmit header -/

/-- 42_can_header_codec R178, R172, R174: an ID too large for its kind raises IdOutOfRange; else the 40-bit header is
TS_EN at bit 0, the ID from bit 2, FDF at 31, IDE at 33, BRS at 34 and nothing else, OBUF holds its five bytes low byte
first, and RES0 and RES1 its low and high words. IN_LEN and IBUF do not matter. -/
def Obligations.EncodeCanHeaderResult : Prop :=
  ∀ s : State,
    let id := s.arg0.toNat
    let ts := (s.arg1.getLsbD 0).toNat
    let fd := (s.arg1.getLsbD 1).toNat
    let ext := (s.arg1.getLsbD 2).toNat
    let brs := (s.arg1.getLsbD 3).toNat
    let h := ts + 2 ^ 2 * id + 2 ^ 31 * fd + 2 ^ 33 * ext + 2 ^ 34 * brs
    ((ext = 0 ∧ 0x7FF < id ∨ ext = 1 ∧ 0x1FFFFFFF < id) →
      ∃ t, exec .encodeCanHeader s = .next t ∧ Raises s t 7) ∧
    ((ext = 0 ∧ id ≤ 0x7FF ∨ ext = 1 ∧ id ≤ 0x1FFFFFFF) →
      ∃ t, exec .encodeCanHeader s = .next t ∧
        Succeeds t 5 (BitVec.ofNat 32 h) (BitVec.ofNat 32 (h / 2 ^ 32)) 0 0 0 0 ∧
        OutputIs s t ((List.range 5).map fun k => BitVec.ofNat 8 (h / 256 ^ k)) ∧ InputsKept s t)

/-- 42_can_header_codec R180: two ENCODE_CAN_HEADER commands with the same ARG0 and ARG1 write the same five OBUF bytes and
the same RES0 and RES1. -/
def Obligations.EncodeCanHeaderIsRepeatable : Prop :=
  ∀ s s' t : State, s'.arg0 = s.arg0 → s'.arg1 = s.arg1 → exec .encodeCanHeader s = .next t →
    t.status = 0x00000002 →
    ∃ t', exec .encodeCanHeader s' = .next t' ∧ t'.status = 0x00000002 ∧ t'.res0 = t.res0 ∧ t'.res1 = t.res1 ∧
      ∀ k, k < 5 → ∃ b, t.obuf.read k = some b ∧ t'.obuf.read k = some b

/-! ## Receive frames -/

/-- 43_frame_decoder R205 with R202, R204, R206: DECODE_FRAME. Errors in the order of 60_exceptions R255;
else every field of the frame record, read from the 120-bit little-endian header value `h`. -/
def Obligations.DecodeFrameResult : Prop :=
  ∀ s : State,
    (s.params.bufBytes < s.inLen.toNat → ∃ t, exec .decodeFrame s = .next t ∧ Raises s t 1) ∧
    (s.inLen.toNat < 15 → ∃ t, exec .decodeFrame s = .next t ∧ Raises s t 4) ∧
    (∀ b0 : Byte, 15 ≤ s.inLen.toNat → s.inLen.toNat ≤ s.params.bufBytes → s.ibuf.read 0 = some b0 →
      b0.toNat % 2 = 1 → ∃ t, exec .decodeFrame s = .next t ∧ Raises s t 6) ∧
    ∀ hd data : List Byte, 15 ≤ s.inLen.toNat → s.inLen.toNat ≤ s.params.bufBytes → hd.length = 15 →
      s.ibuf.Holds 0 hd → (hd.getD 0 0).toNat % 2 = 0 →
      data.length = (if s.inLen.toNat - 15 > 255 then 8 else s.inLen.toNat - 15) → s.ibuf.Holds 15 data →
      let h := ∑ k ∈ Finset.range 15, (hd.getD k 0).toNat * 2 ^ (8 * k)
      let port := h / 2 ^ 2 % 2 ^ 7
      let proto := h / 2 ^ 87 % 2
      let fdf := h / 2 ^ 117 % 2
      let rtr := h / 2 ^ 118 % 2
      let ide := h / 2 ^ 119 % 2
      let ftype := if proto = 1 then 4 else if ide = 0 then (if fdf = 1 then 2 else 0) else (if fdf = 1 then 3 else 1)
      let id := h / 2 ^ 88 % (if proto = 1 then 2 ^ 6 else if ide = 0 then 2 ^ 11 else 2 ^ 29)
      let tagged := ftype = 1 ∨ ftype = 3 ∧ s.params.fdExtRouteTag = true
      ∃ t, exec .decodeFrame s = .next t ∧
        Succeeds t (BitVec.ofNat 32 data.length)
          (BitVec.ofNat 32 (port + 2 ^ 8 * proto + 2 ^ 16 * ftype + 2 ^ 24 * fdf + 2 ^ 25 * rtr + 2 ^ 26 * ide))
          (BitVec.ofNat 32 id)
          (BitVec.ofNat 32 (if tagged then id + 0x80000000 else id))
          (BitVec.ofNat 32 (h / 2 ^ 9 % 2 ^ 17 * 10))
          (BitVec.ofNat 32 (h / 2 ^ 26 % 2 ^ 32))
          (BitVec.ofNat 32 (h / 2 ^ 58 % 2 ^ 32)) ∧
        OutputIs s t data ∧ InputsKept s t

/-- 43_frame_decoder R208: after every successful DECODE_FRAME the ID in RES1 fits the width of the frame type in
RES0[18:16], which is one of the five. -/
def Obligations.IdFitsItsFrameType : Prop :=
  ∀ s t : State, exec .decodeFrame s = .next t → t.status = 0x00000002 →
    let ftype := t.res0.toNat / 2 ^ 16 % 8
    ftype ≤ 4 ∧
    ((ftype = 0 ∨ ftype = 2) → t.res1.toNat ≤ 0x7FF) ∧
    ((ftype = 1 ∨ ftype = 3) → t.res1.toNat ≤ 0x1FFFFFFF) ∧
    (ftype = 4 → t.res1.toNat ≤ 0x3F)

/-- In every decoded frame US_HIGH aliases PROTO as its bit 29 and ID bits 0 and 1 as its bits 30 and 31 (43_frame_decoder
R193, R198). -/
def Obligations.UsHighAliasesProtocolAndId : Prop :=
  ∀ s t : State, exec .decodeFrame s = .next t → t.status = 0x00000002 →
    t.res5.getLsbD 29 = t.res0.getLsbD 8 ∧ t.res5.getLsbD 30 = t.res1.getLsbD 0 ∧
      t.res5.getLsbD 31 = t.res1.getLsbD 1

/-- 43_frame_decoder R195: flipping stream bit 1 (RSVD0, bit 1 of byte 0) never changes the completion. -/
def Obligations.ReservedFrameBitIsIgnored : Prop :=
  ∀ (s s' t : State) (b : Byte), s'.params = s.params → s'.inLen = s.inLen →
    s.ibuf.read 0 = some b → s'.ibuf.read 0 = some (b ^^^ 0x02) → (∀ a, a ≠ 0 → s'.ibuf.read a = s.ibuf.read a) →
    exec .decodeFrame s = .next t → ∃ t', exec .decodeFrame s' = .next t' ∧ SameCompletion t t'

/-- 43_frame_decoder R209: flipping RTR (bit 6 of byte 14) changes nothing of a successful DECODE_FRAME but RES0 bit 25. -/
def Obligations.RtrIsOnlyReported : Prop :=
  ∀ (s s' t : State) (b : Byte), s'.params = s.params → s'.inLen = s.inLen →
    s.ibuf.read 14 = some b → s'.ibuf.read 14 = some (b ^^^ 0x40) → (∀ a, a ≠ 14 → s'.ibuf.read a = s.ibuf.read a) →
    exec .decodeFrame s = .next t → t.status = 0x00000002 →
    ∃ t', exec .decodeFrame s' = .next t' ∧ SameCompletion { t with res0 := t.res0 ^^^ 0x02000000 } t' ∧
      t.res0.getLsbD 25 = b.getLsbD 6

/-- 43_frame_decoder R206: data_len is n - 15, or 8 where that exceeds 255, which is a success; the data are the bytes from
offset 15 on. -/
def Obligations.OversizedDataIsClamped : Prop :=
  ∀ (p : Params) (bs : List Byte), 15 ≤ bs.length → (bs.getD 0 0).toNat % 2 = 0 →
    ∃ f, decodeFrame p bs = .ok f ∧
      f.dataLen = (if bs.length - 15 > 255 then 8 else bs.length - 15) ∧
      f.data = (bs.drop 15).take f.dataLen ∧ f.data.length = f.dataLen

/-- 43_frame_decoder R205, its derived statement: the bytes DECODE_FRAME reads decode to the same frame as the whole buffer.
-/
def Obligations.DecodedPrefixGivesTheSameFrame : Prop :=
  ∀ (p : Params) (bs : List Byte), 15 ≤ bs.length →
    decodeFrame p (bs.take (15 + (if bs.length - 15 > 255 then 8 else bs.length - 15))) = decodeFrame p bs

/-! ## Host accesses -/

/-- 20_memory R65: in every state, the busy window included, a host access of one of the three widths records a bus error
exactly in the four cases of the rule. -/
def Obligations.BusErrorsAreTheFourCases : Prop :=
  ∀ (s : State) (off : Addr) (width : Nat) (v : Word), (width = 8 ∨ width = 16 ∨ width = 32) →
    let a := off.toNat
    let inBuffer := (0x20000 ≤ a ∧ a < 0x60000)
    let k := (a - 0x20000) % 0x20000
    let badRegister := a < 0x100 ∧ (width ≠ 32 ∨ a % 4 ≠ 0)
    let misaligned := inBuffer ∧ k % (width / 8) ≠ 0
    let beyond := inBuffer ∧ s.params.bufBytes < k + width / 8
    let reserved := (0x100 ≤ a ∧ a < 0x20000) ∨ 0x60000 ≤ a
    ((∃ fs, hostRead s off width = .error fs ∧ .hostBusError ∈ fs) ↔
      badRegister ∨ misaligned ∨ beyond ∨ reserved) ∧
    ((∃ fs, hostWrite s off width v = .error fs ∧ .hostBusError ∈ fs) ↔
      badRegister ∨ misaligned ∨ beyond ∨ reserved)

/-- A host access of any other width than 8, 16 or 32 bits records a bus error in every state, the busy window included: no
other width is defined (20_memory R63, 60_exceptions R261; the model's reading, log 14). -/
def Obligations.OtherWidthsAreBusErrors : Prop :=
  ∀ (s : State) (off : Addr) (width : Nat) (v : Word), width ≠ 8 → width ≠ 16 → width ≠ 32 →
    (∃ fs, hostRead s off width = .error fs ∧ .hostBusError ∈ fs) ∧
      ∃ fs, hostWrite s off width v = .error fs ∧ .hostBusError ∈ fs

/-- While the busy window is open (70_reset_and_hazards R290, 60_exceptions R260), every host access, of whatever form,
records a host hazard but the 32-bit reads of STATUS and of CAP, which return those registers; outside it none does. The
window is the model's bit or BUSY = 1 (log 8); another fault of the access is recorded beside the hazard (log 10). -/
def Obligations.BusyWindowAllowsOnlyStatusAndCapReads : Prop :=
  ∀ (s : State) (off : Addr) (width : Nat) (v : Word),
    (s.window = true ∨ busyBit s.status = true →
      (∃ fs, hostWrite s off width v = .error fs ∧ .hostHazard ∈ fs) ∧
      (¬ (width = 32 ∧ (off = 0x04 ∨ off = 0x30)) → ∃ fs, hostRead s off width = .error fs ∧ .hostHazard ∈ fs) ∧
      hostRead s 0x04 32 = .ok s.status ∧ hostRead s 0x30 32 = .ok s.cap) ∧
    (s.window = false → busyBit s.status = false →
      (∀ fs, hostWrite s off width v = .error fs → .hostHazard ∉ fs) ∧
        ∀ fs, hostRead s off width = .error fs → .hostHazard ∉ fs)

/-- Every fault an access raises is recorded, in one fixed order, and an access that raises none is carried out (the model's
choice, log 10): the faults of an access are the hazard, where the busy window does not allow it, and beside it a bus error,
where its form is illegal, or an uninitialised read, where it is a read of a legal form of a byte never written
(60_exceptions R260, R261, R262). -/
def Obligations.EveryFaultOfAnAccessIsRecorded : Prop :=
  ∀ (s : State) (off : Addr) (width : Nat) (v : Word),
    let hazard : List Fault := if s.windowOpen then [.hostHazard] else []
    (busTarget s.params off width = none →
      hostRead s off width = .error (hazard ++ [.hostBusError]) ∧
        hostWrite s off width v = .error (hazard ++ [.hostBusError])) ∧
    ∀ t, busTarget s.params off width = some t →
      (s.windowOpen = true → hostWrite s off width v = .error [.hostHazard]) ∧
      (s.windowOpen = false → ∃ u, hostWrite s off width v = .ok u) ∧
      (s.valueAt width t = none → hostRead s off width = .error (hazard ++ [.uninitialisedRead])) ∧
      ∀ r, s.valueAt width t = some r →
        (s.windowOpen = true → t ≠ .reg .status → t ≠ .reg .cap → hostRead s off width = .error [.hostHazard]) ∧
        (s.windowOpen = false → hostRead s off width = .ok r)

/-- The busy window (70_reset_and_hazards R290) closes only at a STATUS read that returns BUSY = 0 (or at reset), not at the
engine's step. Reads and reset are the model's events (log 5); the value a read returned is kept in `reads` (log 6). -/
def Obligations.WindowClosesOnlyAtAnIdleStatusRead : Prop :=
  ∀ s t : State, step s = .next t → s.window = true → t.window = false →
    (∃ es, s.inputs = .reset :: es) ∨
      (busyBit s.status = false ∧ t.reads = s.status :: s.reads ∧
        ∃ es, s.inputs = .read 0x04 32 :: es ∨ ∃ polls, s.inputs = .poll polls :: es)

/-- A host read changes nothing of the block but the busy window it may close (20_memory R73); the model keeps the value it
returned (log 6). -/
def Obligations.HostReadHasNoSideEffect : Prop :=
  ∀ (s t : State) (off : Addr) (width : Nat) (es : List Input), s.inputs = .read off width :: es →
    s.faultRecord = [] → step s = .next t → t.faultRecord = [] →
    ∃ v, hostRead (s.withInputs es) off width = .ok v ∧
      t = { s with inputs := es, reads := v :: s.reads, window := t.window } ∧ (t.window = true → s.window = true)

/-- 10_state R31: a host read of a reserved register offset returns 0, a write there is ignored, and neither changes any
state. -/
def Obligations.ReservedOffsetsReadZero : Prop :=
  ∀ (s : State) (off : Addr) (v : Word), s.windowOpen = false →
    0x34 ≤ off.toNat → off.toNat ≤ 0xFC → off.toNat % 4 = 0 →
    hostRead s off 32 = .ok 0 ∧ hostWrite s off 32 v = .ok s

/-- 10_state R32: a host write to STATUS, OUT_LEN, RES0..RES5 or CAP is ignored and changes no state while no command is
outstanding; while BUSY = 1 it is a host hazard. -/
def Obligations.ReadOnlyRegistersIgnoreWrites : Prop :=
  ∀ (s : State) (off : Addr) (v : Word),
    (off.toNat = 0x04 ∨ (0x14 ≤ off.toNat ∧ off.toNat ≤ 0x30 ∧ off.toNat % 4 = 0)) →
    (s.windowOpen = false → hostWrite s off 32 v = .ok s) ∧
    (busyBit s.status = true → hostWrite s off 32 v = .error [.hostHazard])

/-- The register map as the host reads it (10_state R22; R23 for CMD, R24, R25 to R29, R30): outside the busy window a 32-bit
read at each offset returns that register. -/
def Obligations.EachOffsetReadsItsRegister : Prop :=
  ∀ s : State, s.windowOpen = false →
    hostRead s 0x00 32 = .ok s.cmd ∧ hostRead s 0x04 32 = .ok s.status ∧ hostRead s 0x08 32 = .ok s.inLen ∧
      hostRead s 0x0C 32 = .ok s.arg0 ∧ hostRead s 0x10 32 = .ok s.arg1 ∧ hostRead s 0x14 32 = .ok s.outLen ∧
      hostRead s 0x18 32 = .ok s.res0 ∧ hostRead s 0x1C 32 = .ok s.res1 ∧ hostRead s 0x20 32 = .ok s.res2 ∧
      hostRead s 0x24 32 = .ok s.res3 ∧ hostRead s 0x28 32 = .ok s.res4 ∧ hostRead s 0x2C 32 = .ok s.res5 ∧
      hostRead s 0x30 32 = .ok (BitVec.ofNat 32 s.params.bufBytes)

/-- The RW operand registers (10_state R22, R25, R26, R27): a write of IN_LEN, ARG0 or ARG1 is read back, and changes no other register and no byte of
either buffer. -/
def Obligations.OperandRegistersReadBack : Prop :=
  ∀ (s : State) (v : Word), s.windowOpen = false →
    (hostWrite s 0x08 32 v = .ok { s with inLen := v } ∧ hostRead { s with inLen := v } 0x08 32 = .ok v) ∧
    (hostWrite s 0x0C 32 v = .ok { s with arg0 := v } ∧ hostRead { s with arg0 := v } 0x0C 32 = .ok v) ∧
    (hostWrite s 0x10 32 v = .ok { s with arg1 := v } ∧ hostRead { s with arg1 := v } 0x10 32 = .ok v)

/-- 10_state R30: CAP reads BUF_BYTES in every state, in the busy window too, and no step changes it. -/
def Obligations.CapAlwaysReadsTheCapacity : Prop :=
  (∀ s : State, ∃ v, hostRead s 0x30 32 = .ok v ∧ v.toNat = s.params.bufBytes ∧ 65546 ≤ v.toNat ∧ v.toNat ≤ 131072) ∧
    ∀ s t : State, step s = .next t → t.params.bufBytes = s.params.bufBytes

/-- Buffer accesses are little-endian (20_memory R64): a write puts byte `i` of the value at offset `k + i` and leaves every
other byte of both buffers as it was; a read returns the little-endian integer of its bytes. An 8-bit or 16-bit value is the
zero-extended low part of a word (log 16); the host may write OBUF (log 22). -/
def Obligations.WideAccessesAreLittleEndian : Prop :=
  ∀ (s : State) (k n : Nat), s.windowOpen = false → (n = 1 ∨ n = 2 ∨ n = 4) → k % n = 0 → k + n ≤ s.params.bufBytes →
    (∀ v : Word, ∃ t, hostWrite s (BitVec.ofNat 19 (0x20000 + k)) (8 * n) v = .ok t ∧
      (∀ i, i < n → t.ibuf.read (k + i) = some (v.extractLsb' (8 * i) 8)) ∧
      (∀ a, a < k ∨ k + n ≤ a → t.ibuf.read a = s.ibuf.read a) ∧ t = { s with ibuf := t.ibuf }) ∧
    (∀ v : Word, ∃ t, hostWrite s (BitVec.ofNat 19 (0x40000 + k)) (8 * n) v = .ok t ∧
      (∀ i, i < n → t.obuf.read (k + i) = some (v.extractLsb' (8 * i) 8)) ∧
      (∀ a, a < k ∨ k + n ≤ a → t.obuf.read a = s.obuf.read a) ∧ t = { s with obuf := t.obuf }) ∧
    (∀ bs : List Byte, bs.length = n →
      (s.obuf.Holds k bs → hostRead s (BitVec.ofNat 19 (0x40000 + k)) (8 * n) =
        .ok (BitVec.ofNat 32 (∑ i ∈ Finset.range n, (bs.getD i 0).toNat * 2 ^ (8 * i)))) ∧
      (s.ibuf.Holds k bs → hostRead s (BitVec.ofNat 19 (0x20000 + k)) (8 * n) =
        .ok (BitVec.ofNat 32 (∑ i ∈ Finset.range n, (bs.getD i 0).toNat * 2 ^ (8 * i)))))

/-- The host's side of 60_exceptions R262: a host read that touches a byte nothing has written since reset faults with
UninitialisedRead, the whole access where one byte of several was not written (log 15), and in the busy window the hazard is
recorded beside it (log 10). -/
def Obligations.UnwrittenByteReadFaults : Prop :=
  ∀ (s : State) (k n i : Nat), (n = 1 ∨ n = 2 ∨ n = 4) → k % n = 0 → k + n ≤ s.params.bufBytes → i < n →
    let hazard : List Fault := if s.windowOpen then [.hostHazard] else []
    (s.ibuf.read (k + i) = none →
      hostRead s (BitVec.ofNat 19 (0x20000 + k)) (8 * n) = .error (hazard ++ [.uninitialisedRead])) ∧
    (s.obuf.read (k + i) = none →
      hostRead s (BitVec.ofNat 19 (0x40000 + k)) (8 * n) = .error (hazard ++ [.uninitialisedRead]))

/-- The statement `wait` (30_encoding R95; 20_memory R75, R76): while the engine is busy each STATUS read returns BUSY = 1
and the statement stays pending; once STATUS reads BUSY = 0 the statement ends and the busy window closes
(70_reset_and_hazards R290, the bit `window` of log 8). How many reads come before the engine's step is the model's input
(log 5), as the count a `wait` carries is (log 19); the values read are kept in `reads` (log 6). -/
def Obligations.WaitPollsUntilNotBusy : Prop :=
  ∀ (s : State) (n : Nat) (es : List Input), s.faultRecord = [] →
    (s.inputs = .poll (n + 1) :: es → s.engState = .busy → busyBit s.status = true →
      step s = .next { s with inputs := .poll n :: es, reads := s.status :: s.reads }) ∧
    (s.inputs = .poll n :: es → s.engState = .idle → busyBit s.status = false →
      step s = .next { s with inputs := es, reads := s.status :: s.reads, window := false })

/-! ## Faults and reset -/

/-- The fault record (60_exceptions R263) is never cleared by a later step but reset; with a fault recorded the machine goes
no further, and stops with the first one recorded (log 7, log 10). -/
def Obligations.FaultRecordStaysUntilReset : Prop :=
  ∀ (s : State) (f : Fault) (fs : List Fault), s.faultRecord = f :: fs →
    (∀ es, s.inputs = .reset :: es → ∃ t, step s = .next t ∧ t.faultRecord = []) ∧
    ((∀ es, s.inputs ≠ .reset :: es) → step s = .fault f)

/-- An access that faults (60_exceptions R260, R261, R262) changes no state of the block; the step only records its faults and
takes the event off the pending ones, where there is one (log 4, log 7). A `wait` stays pending when the engine's step it
waited for faults (log 5). -/
def Obligations.FaultingAccessChangesNoState : Prop :=
  ∀ s t : State, s.faultRecord = [] → step s = .next t → t.faultRecord ≠ [] →
    t = { s with faultRecord := t.faultRecord, inputs := t.inputs } ∧
    (∀ n es, s.inputs = .poll n :: es → t.inputs = s.inputs) ∧
    ((∀ n es, s.inputs ≠ .poll n :: es) → t.inputs = s.inputs.tail)

/-- 70_reset_and_hazards R280, 10_state R40: reset, whatever the state, gives every piece of state its reset value, abandons
a command in flight, clears every written-mark and empties the fault record; the parameters stay, so CAP does. Reset
comes as an event (log 4) and closes the busy window (log 8). -/
def Obligations.ResetTakesEveryResetValue : Prop :=
  ∀ (s : State) (es : List Input), s.inputs = .reset :: es →
    ∃ t, step s = .next t ∧ t.engState = .idle ∧ t.pend = 0 ∧ t.cmd = 0 ∧ t.status = 0 ∧ t.inLen = 0 ∧ t.arg0 = 0 ∧
      t.arg1 = 0 ∧ t.outLen = 0 ∧ t.res0 = 0 ∧ t.res1 = 0 ∧ t.res2 = 0 ∧ t.res3 = 0 ∧ t.res4 = 0 ∧ t.res5 = 0 ∧
      (∀ a, t.ibuf.read a = none ∧ t.obuf.read a = none) ∧ t.faultRecord = [] ∧ t.params = s.params ∧ t.cap = s.cap ∧
      t.window = false ∧ t.inputs = es

/-- After reset the engine is idle, STATUS reads 0, and no NOP was started (70_reset_and_hazards R281): with no event
pending (log 4), a step changes nothing. -/
def Obligations.AfterResetNoCommandIsPending : Prop :=
  State.reset.engState = .idle ∧ State.reset.cmd = 0 ∧ hostRead State.reset 0x04 32 = .ok 0 ∧
    step State.reset = .next State.reset

/-- Results persist (70_reset_and_hazards R291): with the engine idle, no step but reset changes OUT_LEN or RES0..RES5, and none but a host
write of OBUF or reset changes OBUF. -/
def Obligations.ResultsPersistUntilTheNextCommand : Prop :=
  ∀ s t : State, step s = .next t → s.engState = .idle → (∀ es, s.inputs ≠ .reset :: es) →
    t.outLen = s.outLen ∧ t.res0 = s.res0 ∧ t.res1 = s.res1 ∧ t.res2 = s.res2 ∧ t.res3 = s.res3 ∧ t.res4 = s.res4 ∧
      t.res5 = s.res5 ∧
      ((∀ off width v es, s.inputs = .write off width v :: es → off.toNat < 0x40000) → t.obuf = s.obuf)

/-! ## The invariant -/

/-- Every step keeps the invariant of the machine: memories in canonical form and within BUF_BYTES, STATUS legal
(10_state R24), ENG_STATE = BUSY exactly when STATUS.BUSY = 1 (R21), the busy window open over a command, PEND = CMD, no
result after an error (60_exceptions R253), OUT_LEN at most 65546 (10_state R28) with its bytes written. The canonical form
and the place of the busy window are the model's (log 2, log 8). -/
def Obligations.EveryStepKeepsTheInvariant : Prop :=
  ∀ s t : State, s.Inv → step s = .next t → t.Inv

/-- The state after reset (10_state R40) meets the invariant, with the busy window closed (log 8). -/
def Obligations.ResetMeetsTheInvariant : Prop := State.reset.Inv
end

