-- ==== Sys2Proof/Laws/State.lean ====
section
/-! SUPPORT. One lemma per field of State and update of it, all by rfl, so that no later proof unfolds a record update. -/

namespace Sys2Proof.Machine

/-! ## finishOk -/

@[simp] theorem State.finishOk_engState (s : State) (n r0 r1 r2 r3 r4 r5 : Word) : (s.finishOk n r0 r1 r2 r3 r4 r5).engState = .idle := rfl
@[simp] theorem State.finishOk_pend (s : State) (n r0 r1 r2 r3 r4 r5 : Word) : (s.finishOk n r0 r1 r2 r3 r4 r5).pend = s.pend := rfl
@[simp] theorem State.finishOk_cmd (s : State) (n r0 r1 r2 r3 r4 r5 : Word) : (s.finishOk n r0 r1 r2 r3 r4 r5).cmd = s.cmd := rfl
@[simp] theorem State.finishOk_status (s : State) (n r0 r1 r2 r3 r4 r5 : Word) : (s.finishOk n r0 r1 r2 r3 r4 r5).status = statusOk := rfl
@[simp] theorem State.finishOk_inLen (s : State) (n r0 r1 r2 r3 r4 r5 : Word) : (s.finishOk n r0 r1 r2 r3 r4 r5).inLen = s.inLen := rfl
@[simp] theorem State.finishOk_arg0 (s : State) (n r0 r1 r2 r3 r4 r5 : Word) : (s.finishOk n r0 r1 r2 r3 r4 r5).arg0 = s.arg0 := rfl
@[simp] theorem State.finishOk_arg1 (s : State) (n r0 r1 r2 r3 r4 r5 : Word) : (s.finishOk n r0 r1 r2 r3 r4 r5).arg1 = s.arg1 := rfl
@[simp] theorem State.finishOk_outLen (s : State) (n r0 r1 r2 r3 r4 r5 : Word) : (s.finishOk n r0 r1 r2 r3 r4 r5).outLen = n := rfl
@[simp] theorem State.finishOk_res0 (s : State) (n r0 r1 r2 r3 r4 r5 : Word) : (s.finishOk n r0 r1 r2 r3 r4 r5).res0 = r0 := rfl
@[simp] theorem State.finishOk_res1 (s : State) (n r0 r1 r2 r3 r4 r5 : Word) : (s.finishOk n r0 r1 r2 r3 r4 r5).res1 = r1 := rfl
@[simp] theorem State.finishOk_res2 (s : State) (n r0 r1 r2 r3 r4 r5 : Word) : (s.finishOk n r0 r1 r2 r3 r4 r5).res2 = r2 := rfl
@[simp] theorem State.finishOk_res3 (s : State) (n r0 r1 r2 r3 r4 r5 : Word) : (s.finishOk n r0 r1 r2 r3 r4 r5).res3 = r3 := rfl
@[simp] theorem State.finishOk_res4 (s : State) (n r0 r1 r2 r3 r4 r5 : Word) : (s.finishOk n r0 r1 r2 r3 r4 r5).res4 = r4 := rfl
@[simp] theorem State.finishOk_res5 (s : State) (n r0 r1 r2 r3 r4 r5 : Word) : (s.finishOk n r0 r1 r2 r3 r4 r5).res5 = r5 := rfl
@[simp] theorem State.finishOk_ibuf (s : State) (n r0 r1 r2 r3 r4 r5 : Word) : (s.finishOk n r0 r1 r2 r3 r4 r5).ibuf = s.ibuf := rfl
@[simp] theorem State.finishOk_obuf (s : State) (n r0 r1 r2 r3 r4 r5 : Word) : (s.finishOk n r0 r1 r2 r3 r4 r5).obuf = s.obuf := rfl
@[simp] theorem State.finishOk_window (s : State) (n r0 r1 r2 r3 r4 r5 : Word) : (s.finishOk n r0 r1 r2 r3 r4 r5).window = s.window := rfl
@[simp] theorem State.finishOk_faultRecord (s : State) (n r0 r1 r2 r3 r4 r5 : Word) : (s.finishOk n r0 r1 r2 r3 r4 r5).faultRecord = s.faultRecord := rfl
@[simp] theorem State.finishOk_params (s : State) (n r0 r1 r2 r3 r4 r5 : Word) : (s.finishOk n r0 r1 r2 r3 r4 r5).params = s.params := rfl
@[simp] theorem State.finishOk_inputs (s : State) (n r0 r1 r2 r3 r4 r5 : Word) : (s.finishOk n r0 r1 r2 r3 r4 r5).inputs = s.inputs := rfl
@[simp] theorem State.finishOk_reads (s : State) (n r0 r1 r2 r3 r4 r5 : Word) : (s.finishOk n r0 r1 r2 r3 r4 r5).reads = s.reads := rfl

/-! ## raise -/

@[simp] theorem State.raise_engState (s : State) (e : ErrKind) : (s.raise e).engState = .idle := rfl
@[simp] theorem State.raise_pend (s : State) (e : ErrKind) : (s.raise e).pend = s.pend := rfl
@[simp] theorem State.raise_cmd (s : State) (e : ErrKind) : (s.raise e).cmd = s.cmd := rfl
@[simp] theorem State.raise_status (s : State) (e : ErrKind) : (s.raise e).status = statusErr e := rfl
@[simp] theorem State.raise_inLen (s : State) (e : ErrKind) : (s.raise e).inLen = s.inLen := rfl
@[simp] theorem State.raise_arg0 (s : State) (e : ErrKind) : (s.raise e).arg0 = s.arg0 := rfl
@[simp] theorem State.raise_arg1 (s : State) (e : ErrKind) : (s.raise e).arg1 = s.arg1 := rfl
@[simp] theorem State.raise_outLen (s : State) (e : ErrKind) : (s.raise e).outLen = 0 := rfl
@[simp] theorem State.raise_res0 (s : State) (e : ErrKind) : (s.raise e).res0 = 0 := rfl
@[simp] theorem State.raise_res1 (s : State) (e : ErrKind) : (s.raise e).res1 = 0 := rfl
@[simp] theorem State.raise_res2 (s : State) (e : ErrKind) : (s.raise e).res2 = 0 := rfl
@[simp] theorem State.raise_res3 (s : State) (e : ErrKind) : (s.raise e).res3 = 0 := rfl
@[simp] theorem State.raise_res4 (s : State) (e : ErrKind) : (s.raise e).res4 = 0 := rfl
@[simp] theorem State.raise_res5 (s : State) (e : ErrKind) : (s.raise e).res5 = 0 := rfl
@[simp] theorem State.raise_ibuf (s : State) (e : ErrKind) : (s.raise e).ibuf = s.ibuf := rfl
@[simp] theorem State.raise_obuf (s : State) (e : ErrKind) : (s.raise e).obuf = s.obuf := rfl
@[simp] theorem State.raise_window (s : State) (e : ErrKind) : (s.raise e).window = s.window := rfl
@[simp] theorem State.raise_faultRecord (s : State) (e : ErrKind) : (s.raise e).faultRecord = s.faultRecord := rfl
@[simp] theorem State.raise_params (s : State) (e : ErrKind) : (s.raise e).params = s.params := rfl
@[simp] theorem State.raise_inputs (s : State) (e : ErrKind) : (s.raise e).inputs = s.inputs := rfl
@[simp] theorem State.raise_reads (s : State) (e : ErrKind) : (s.raise e).reads = s.reads := rfl

/-! ## withIbuf -/

@[simp] theorem State.withIbuf_engState (s : State) (m : Memory) : (s.withIbuf m).engState = s.engState := rfl
@[simp] theorem State.withIbuf_pend (s : State) (m : Memory) : (s.withIbuf m).pend = s.pend := rfl
@[simp] theorem State.withIbuf_cmd (s : State) (m : Memory) : (s.withIbuf m).cmd = s.cmd := rfl
@[simp] theorem State.withIbuf_status (s : State) (m : Memory) : (s.withIbuf m).status = s.status := rfl
@[simp] theorem State.withIbuf_inLen (s : State) (m : Memory) : (s.withIbuf m).inLen = s.inLen := rfl
@[simp] theorem State.withIbuf_arg0 (s : State) (m : Memory) : (s.withIbuf m).arg0 = s.arg0 := rfl
@[simp] theorem State.withIbuf_arg1 (s : State) (m : Memory) : (s.withIbuf m).arg1 = s.arg1 := rfl
@[simp] theorem State.withIbuf_outLen (s : State) (m : Memory) : (s.withIbuf m).outLen = s.outLen := rfl
@[simp] theorem State.withIbuf_res0 (s : State) (m : Memory) : (s.withIbuf m).res0 = s.res0 := rfl
@[simp] theorem State.withIbuf_res1 (s : State) (m : Memory) : (s.withIbuf m).res1 = s.res1 := rfl
@[simp] theorem State.withIbuf_res2 (s : State) (m : Memory) : (s.withIbuf m).res2 = s.res2 := rfl
@[simp] theorem State.withIbuf_res3 (s : State) (m : Memory) : (s.withIbuf m).res3 = s.res3 := rfl
@[simp] theorem State.withIbuf_res4 (s : State) (m : Memory) : (s.withIbuf m).res4 = s.res4 := rfl
@[simp] theorem State.withIbuf_res5 (s : State) (m : Memory) : (s.withIbuf m).res5 = s.res5 := rfl
@[simp] theorem State.withIbuf_ibuf (s : State) (m : Memory) : (s.withIbuf m).ibuf = m := rfl
@[simp] theorem State.withIbuf_obuf (s : State) (m : Memory) : (s.withIbuf m).obuf = s.obuf := rfl
@[simp] theorem State.withIbuf_window (s : State) (m : Memory) : (s.withIbuf m).window = s.window := rfl
@[simp] theorem State.withIbuf_faultRecord (s : State) (m : Memory) : (s.withIbuf m).faultRecord = s.faultRecord := rfl
@[simp] theorem State.withIbuf_params (s : State) (m : Memory) : (s.withIbuf m).params = s.params := rfl
@[simp] theorem State.withIbuf_inputs (s : State) (m : Memory) : (s.withIbuf m).inputs = s.inputs := rfl
@[simp] theorem State.withIbuf_reads (s : State) (m : Memory) : (s.withIbuf m).reads = s.reads := rfl

/-! ## withObuf -/

@[simp] theorem State.withObuf_engState (s : State) (m : Memory) : (s.withObuf m).engState = s.engState := rfl
@[simp] theorem State.withObuf_pend (s : State) (m : Memory) : (s.withObuf m).pend = s.pend := rfl
@[simp] theorem State.withObuf_cmd (s : State) (m : Memory) : (s.withObuf m).cmd = s.cmd := rfl
@[simp] theorem State.withObuf_status (s : State) (m : Memory) : (s.withObuf m).status = s.status := rfl
@[simp] theorem State.withObuf_inLen (s : State) (m : Memory) : (s.withObuf m).inLen = s.inLen := rfl
@[simp] theorem State.withObuf_arg0 (s : State) (m : Memory) : (s.withObuf m).arg0 = s.arg0 := rfl
@[simp] theorem State.withObuf_arg1 (s : State) (m : Memory) : (s.withObuf m).arg1 = s.arg1 := rfl
@[simp] theorem State.withObuf_outLen (s : State) (m : Memory) : (s.withObuf m).outLen = s.outLen := rfl
@[simp] theorem State.withObuf_res0 (s : State) (m : Memory) : (s.withObuf m).res0 = s.res0 := rfl
@[simp] theorem State.withObuf_res1 (s : State) (m : Memory) : (s.withObuf m).res1 = s.res1 := rfl
@[simp] theorem State.withObuf_res2 (s : State) (m : Memory) : (s.withObuf m).res2 = s.res2 := rfl
@[simp] theorem State.withObuf_res3 (s : State) (m : Memory) : (s.withObuf m).res3 = s.res3 := rfl
@[simp] theorem State.withObuf_res4 (s : State) (m : Memory) : (s.withObuf m).res4 = s.res4 := rfl
@[simp] theorem State.withObuf_res5 (s : State) (m : Memory) : (s.withObuf m).res5 = s.res5 := rfl
@[simp] theorem State.withObuf_ibuf (s : State) (m : Memory) : (s.withObuf m).ibuf = s.ibuf := rfl
@[simp] theorem State.withObuf_obuf (s : State) (m : Memory) : (s.withObuf m).obuf = m := rfl
@[simp] theorem State.withObuf_window (s : State) (m : Memory) : (s.withObuf m).window = s.window := rfl
@[simp] theorem State.withObuf_faultRecord (s : State) (m : Memory) : (s.withObuf m).faultRecord = s.faultRecord := rfl
@[simp] theorem State.withObuf_params (s : State) (m : Memory) : (s.withObuf m).params = s.params := rfl
@[simp] theorem State.withObuf_inputs (s : State) (m : Memory) : (s.withObuf m).inputs = s.inputs := rfl
@[simp] theorem State.withObuf_reads (s : State) (m : Memory) : (s.withObuf m).reads = s.reads := rfl

/-! ## writeObuf -/

@[simp] theorem State.writeObuf_engState (s : State) (vs : List Byte) : (s.writeObuf vs).engState = s.engState := rfl
@[simp] theorem State.writeObuf_pend (s : State) (vs : List Byte) : (s.writeObuf vs).pend = s.pend := rfl
@[simp] theorem State.writeObuf_cmd (s : State) (vs : List Byte) : (s.writeObuf vs).cmd = s.cmd := rfl
@[simp] theorem State.writeObuf_status (s : State) (vs : List Byte) : (s.writeObuf vs).status = s.status := rfl
@[simp] theorem State.writeObuf_inLen (s : State) (vs : List Byte) : (s.writeObuf vs).inLen = s.inLen := rfl
@[simp] theorem State.writeObuf_arg0 (s : State) (vs : List Byte) : (s.writeObuf vs).arg0 = s.arg0 := rfl
@[simp] theorem State.writeObuf_arg1 (s : State) (vs : List Byte) : (s.writeObuf vs).arg1 = s.arg1 := rfl
@[simp] theorem State.writeObuf_outLen (s : State) (vs : List Byte) : (s.writeObuf vs).outLen = s.outLen := rfl
@[simp] theorem State.writeObuf_res0 (s : State) (vs : List Byte) : (s.writeObuf vs).res0 = s.res0 := rfl
@[simp] theorem State.writeObuf_res1 (s : State) (vs : List Byte) : (s.writeObuf vs).res1 = s.res1 := rfl
@[simp] theorem State.writeObuf_res2 (s : State) (vs : List Byte) : (s.writeObuf vs).res2 = s.res2 := rfl
@[simp] theorem State.writeObuf_res3 (s : State) (vs : List Byte) : (s.writeObuf vs).res3 = s.res3 := rfl
@[simp] theorem State.writeObuf_res4 (s : State) (vs : List Byte) : (s.writeObuf vs).res4 = s.res4 := rfl
@[simp] theorem State.writeObuf_res5 (s : State) (vs : List Byte) : (s.writeObuf vs).res5 = s.res5 := rfl
@[simp] theorem State.writeObuf_ibuf (s : State) (vs : List Byte) : (s.writeObuf vs).ibuf = s.ibuf := rfl
@[simp] theorem State.writeObuf_obuf (s : State) (vs : List Byte) : (s.writeObuf vs).obuf = s.obuf.writeRange 0 vs := rfl
@[simp] theorem State.writeObuf_window (s : State) (vs : List Byte) : (s.writeObuf vs).window = s.window := rfl
@[simp] theorem State.writeObuf_faultRecord (s : State) (vs : List Byte) : (s.writeObuf vs).faultRecord = s.faultRecord := rfl
@[simp] theorem State.writeObuf_params (s : State) (vs : List Byte) : (s.writeObuf vs).params = s.params := rfl
@[simp] theorem State.writeObuf_inputs (s : State) (vs : List Byte) : (s.writeObuf vs).inputs = s.inputs := rfl
@[simp] theorem State.writeObuf_reads (s : State) (vs : List Byte) : (s.writeObuf vs).reads = s.reads := rfl

/-! ## start -/

@[simp] theorem State.start_engState (s : State) (w : Word) : (s.start w).engState = .busy := rfl
@[simp] theorem State.start_pend (s : State) (w : Word) : (s.start w).pend = w := rfl
@[simp] theorem State.start_cmd (s : State) (w : Word) : (s.start w).cmd = w := rfl
@[simp] theorem State.start_status (s : State) (w : Word) : (s.start w).status = statusStarted := rfl
@[simp] theorem State.start_inLen (s : State) (w : Word) : (s.start w).inLen = s.inLen := rfl
@[simp] theorem State.start_arg0 (s : State) (w : Word) : (s.start w).arg0 = s.arg0 := rfl
@[simp] theorem State.start_arg1 (s : State) (w : Word) : (s.start w).arg1 = s.arg1 := rfl
@[simp] theorem State.start_outLen (s : State) (w : Word) : (s.start w).outLen = s.outLen := rfl
@[simp] theorem State.start_res0 (s : State) (w : Word) : (s.start w).res0 = s.res0 := rfl
@[simp] theorem State.start_res1 (s : State) (w : Word) : (s.start w).res1 = s.res1 := rfl
@[simp] theorem State.start_res2 (s : State) (w : Word) : (s.start w).res2 = s.res2 := rfl
@[simp] theorem State.start_res3 (s : State) (w : Word) : (s.start w).res3 = s.res3 := rfl
@[simp] theorem State.start_res4 (s : State) (w : Word) : (s.start w).res4 = s.res4 := rfl
@[simp] theorem State.start_res5 (s : State) (w : Word) : (s.start w).res5 = s.res5 := rfl
@[simp] theorem State.start_ibuf (s : State) (w : Word) : (s.start w).ibuf = s.ibuf := rfl
@[simp] theorem State.start_obuf (s : State) (w : Word) : (s.start w).obuf = s.obuf := rfl
@[simp] theorem State.start_window (s : State) (w : Word) : (s.start w).window = true := rfl
@[simp] theorem State.start_faultRecord (s : State) (w : Word) : (s.start w).faultRecord = s.faultRecord := rfl
@[simp] theorem State.start_params (s : State) (w : Word) : (s.start w).params = s.params := rfl
@[simp] theorem State.start_inputs (s : State) (w : Word) : (s.start w).inputs = s.inputs := rfl
@[simp] theorem State.start_reads (s : State) (w : Word) : (s.start w).reads = s.reads := rfl

/-! ## withInLen -/

@[simp] theorem State.withInLen_engState (s : State) (v : Word) : (s.withInLen v).engState = s.engState := rfl
@[simp] theorem State.withInLen_pend (s : State) (v : Word) : (s.withInLen v).pend = s.pend := rfl
@[simp] theorem State.withInLen_cmd (s : State) (v : Word) : (s.withInLen v).cmd = s.cmd := rfl
@[simp] theorem State.withInLen_status (s : State) (v : Word) : (s.withInLen v).status = s.status := rfl
@[simp] theorem State.withInLen_inLen (s : State) (v : Word) : (s.withInLen v).inLen = v := rfl
@[simp] theorem State.withInLen_arg0 (s : State) (v : Word) : (s.withInLen v).arg0 = s.arg0 := rfl
@[simp] theorem State.withInLen_arg1 (s : State) (v : Word) : (s.withInLen v).arg1 = s.arg1 := rfl
@[simp] theorem State.withInLen_outLen (s : State) (v : Word) : (s.withInLen v).outLen = s.outLen := rfl
@[simp] theorem State.withInLen_res0 (s : State) (v : Word) : (s.withInLen v).res0 = s.res0 := rfl
@[simp] theorem State.withInLen_res1 (s : State) (v : Word) : (s.withInLen v).res1 = s.res1 := rfl
@[simp] theorem State.withInLen_res2 (s : State) (v : Word) : (s.withInLen v).res2 = s.res2 := rfl
@[simp] theorem State.withInLen_res3 (s : State) (v : Word) : (s.withInLen v).res3 = s.res3 := rfl
@[simp] theorem State.withInLen_res4 (s : State) (v : Word) : (s.withInLen v).res4 = s.res4 := rfl
@[simp] theorem State.withInLen_res5 (s : State) (v : Word) : (s.withInLen v).res5 = s.res5 := rfl
@[simp] theorem State.withInLen_ibuf (s : State) (v : Word) : (s.withInLen v).ibuf = s.ibuf := rfl
@[simp] theorem State.withInLen_obuf (s : State) (v : Word) : (s.withInLen v).obuf = s.obuf := rfl
@[simp] theorem State.withInLen_window (s : State) (v : Word) : (s.withInLen v).window = s.window := rfl
@[simp] theorem State.withInLen_faultRecord (s : State) (v : Word) : (s.withInLen v).faultRecord = s.faultRecord := rfl
@[simp] theorem State.withInLen_params (s : State) (v : Word) : (s.withInLen v).params = s.params := rfl
@[simp] theorem State.withInLen_inputs (s : State) (v : Word) : (s.withInLen v).inputs = s.inputs := rfl
@[simp] theorem State.withInLen_reads (s : State) (v : Word) : (s.withInLen v).reads = s.reads := rfl

/-! ## withArg0 -/

@[simp] theorem State.withArg0_engState (s : State) (v : Word) : (s.withArg0 v).engState = s.engState := rfl
@[simp] theorem State.withArg0_pend (s : State) (v : Word) : (s.withArg0 v).pend = s.pend := rfl
@[simp] theorem State.withArg0_cmd (s : State) (v : Word) : (s.withArg0 v).cmd = s.cmd := rfl
@[simp] theorem State.withArg0_status (s : State) (v : Word) : (s.withArg0 v).status = s.status := rfl
@[simp] theorem State.withArg0_inLen (s : State) (v : Word) : (s.withArg0 v).inLen = s.inLen := rfl
@[simp] theorem State.withArg0_arg0 (s : State) (v : Word) : (s.withArg0 v).arg0 = v := rfl
@[simp] theorem State.withArg0_arg1 (s : State) (v : Word) : (s.withArg0 v).arg1 = s.arg1 := rfl
@[simp] theorem State.withArg0_outLen (s : State) (v : Word) : (s.withArg0 v).outLen = s.outLen := rfl
@[simp] theorem State.withArg0_res0 (s : State) (v : Word) : (s.withArg0 v).res0 = s.res0 := rfl
@[simp] theorem State.withArg0_res1 (s : State) (v : Word) : (s.withArg0 v).res1 = s.res1 := rfl
@[simp] theorem State.withArg0_res2 (s : State) (v : Word) : (s.withArg0 v).res2 = s.res2 := rfl
@[simp] theorem State.withArg0_res3 (s : State) (v : Word) : (s.withArg0 v).res3 = s.res3 := rfl
@[simp] theorem State.withArg0_res4 (s : State) (v : Word) : (s.withArg0 v).res4 = s.res4 := rfl
@[simp] theorem State.withArg0_res5 (s : State) (v : Word) : (s.withArg0 v).res5 = s.res5 := rfl
@[simp] theorem State.withArg0_ibuf (s : State) (v : Word) : (s.withArg0 v).ibuf = s.ibuf := rfl
@[simp] theorem State.withArg0_obuf (s : State) (v : Word) : (s.withArg0 v).obuf = s.obuf := rfl
@[simp] theorem State.withArg0_window (s : State) (v : Word) : (s.withArg0 v).window = s.window := rfl
@[simp] theorem State.withArg0_faultRecord (s : State) (v : Word) : (s.withArg0 v).faultRecord = s.faultRecord := rfl
@[simp] theorem State.withArg0_params (s : State) (v : Word) : (s.withArg0 v).params = s.params := rfl
@[simp] theorem State.withArg0_inputs (s : State) (v : Word) : (s.withArg0 v).inputs = s.inputs := rfl
@[simp] theorem State.withArg0_reads (s : State) (v : Word) : (s.withArg0 v).reads = s.reads := rfl

/-! ## withArg1 -/

@[simp] theorem State.withArg1_engState (s : State) (v : Word) : (s.withArg1 v).engState = s.engState := rfl
@[simp] theorem State.withArg1_pend (s : State) (v : Word) : (s.withArg1 v).pend = s.pend := rfl
@[simp] theorem State.withArg1_cmd (s : State) (v : Word) : (s.withArg1 v).cmd = s.cmd := rfl
@[simp] theorem State.withArg1_status (s : State) (v : Word) : (s.withArg1 v).status = s.status := rfl
@[simp] theorem State.withArg1_inLen (s : State) (v : Word) : (s.withArg1 v).inLen = s.inLen := rfl
@[simp] theorem State.withArg1_arg0 (s : State) (v : Word) : (s.withArg1 v).arg0 = s.arg0 := rfl
@[simp] theorem State.withArg1_arg1 (s : State) (v : Word) : (s.withArg1 v).arg1 = v := rfl
@[simp] theorem State.withArg1_outLen (s : State) (v : Word) : (s.withArg1 v).outLen = s.outLen := rfl
@[simp] theorem State.withArg1_res0 (s : State) (v : Word) : (s.withArg1 v).res0 = s.res0 := rfl
@[simp] theorem State.withArg1_res1 (s : State) (v : Word) : (s.withArg1 v).res1 = s.res1 := rfl
@[simp] theorem State.withArg1_res2 (s : State) (v : Word) : (s.withArg1 v).res2 = s.res2 := rfl
@[simp] theorem State.withArg1_res3 (s : State) (v : Word) : (s.withArg1 v).res3 = s.res3 := rfl
@[simp] theorem State.withArg1_res4 (s : State) (v : Word) : (s.withArg1 v).res4 = s.res4 := rfl
@[simp] theorem State.withArg1_res5 (s : State) (v : Word) : (s.withArg1 v).res5 = s.res5 := rfl
@[simp] theorem State.withArg1_ibuf (s : State) (v : Word) : (s.withArg1 v).ibuf = s.ibuf := rfl
@[simp] theorem State.withArg1_obuf (s : State) (v : Word) : (s.withArg1 v).obuf = s.obuf := rfl
@[simp] theorem State.withArg1_window (s : State) (v : Word) : (s.withArg1 v).window = s.window := rfl
@[simp] theorem State.withArg1_faultRecord (s : State) (v : Word) : (s.withArg1 v).faultRecord = s.faultRecord := rfl
@[simp] theorem State.withArg1_params (s : State) (v : Word) : (s.withArg1 v).params = s.params := rfl
@[simp] theorem State.withArg1_inputs (s : State) (v : Word) : (s.withArg1 v).inputs = s.inputs := rfl
@[simp] theorem State.withArg1_reads (s : State) (v : Word) : (s.withArg1 v).reads = s.reads := rfl

/-! ## deliver -/

@[simp] theorem State.deliver_engState (s : State) (off : Addr) (v : Word) : (s.deliver off v).engState = s.engState := rfl
@[simp] theorem State.deliver_pend (s : State) (off : Addr) (v : Word) : (s.deliver off v).pend = s.pend := rfl
@[simp] theorem State.deliver_cmd (s : State) (off : Addr) (v : Word) : (s.deliver off v).cmd = s.cmd := rfl
@[simp] theorem State.deliver_status (s : State) (off : Addr) (v : Word) : (s.deliver off v).status = s.status := rfl
@[simp] theorem State.deliver_inLen (s : State) (off : Addr) (v : Word) : (s.deliver off v).inLen = s.inLen := rfl
@[simp] theorem State.deliver_arg0 (s : State) (off : Addr) (v : Word) : (s.deliver off v).arg0 = s.arg0 := rfl
@[simp] theorem State.deliver_arg1 (s : State) (off : Addr) (v : Word) : (s.deliver off v).arg1 = s.arg1 := rfl
@[simp] theorem State.deliver_outLen (s : State) (off : Addr) (v : Word) : (s.deliver off v).outLen = s.outLen := rfl
@[simp] theorem State.deliver_res0 (s : State) (off : Addr) (v : Word) : (s.deliver off v).res0 = s.res0 := rfl
@[simp] theorem State.deliver_res1 (s : State) (off : Addr) (v : Word) : (s.deliver off v).res1 = s.res1 := rfl
@[simp] theorem State.deliver_res2 (s : State) (off : Addr) (v : Word) : (s.deliver off v).res2 = s.res2 := rfl
@[simp] theorem State.deliver_res3 (s : State) (off : Addr) (v : Word) : (s.deliver off v).res3 = s.res3 := rfl
@[simp] theorem State.deliver_res4 (s : State) (off : Addr) (v : Word) : (s.deliver off v).res4 = s.res4 := rfl
@[simp] theorem State.deliver_res5 (s : State) (off : Addr) (v : Word) : (s.deliver off v).res5 = s.res5 := rfl
@[simp] theorem State.deliver_ibuf (s : State) (off : Addr) (v : Word) : (s.deliver off v).ibuf = s.ibuf := rfl
@[simp] theorem State.deliver_obuf (s : State) (off : Addr) (v : Word) : (s.deliver off v).obuf = s.obuf := rfl
@[simp] theorem State.deliver_window (s : State) (off : Addr) (v : Word) : (s.deliver off v).window = (s.window && !(off == statusOff && !busyBit v)) := rfl
@[simp] theorem State.deliver_faultRecord (s : State) (off : Addr) (v : Word) : (s.deliver off v).faultRecord = s.faultRecord := rfl
@[simp] theorem State.deliver_params (s : State) (off : Addr) (v : Word) : (s.deliver off v).params = s.params := rfl
@[simp] theorem State.deliver_inputs (s : State) (off : Addr) (v : Word) : (s.deliver off v).inputs = s.inputs := rfl
@[simp] theorem State.deliver_reads (s : State) (off : Addr) (v : Word) : (s.deliver off v).reads = v :: s.reads := rfl

/-! ## withInputs -/

@[simp] theorem State.withInputs_engState (s : State) (es : List Input) : (s.withInputs es).engState = s.engState := rfl
@[simp] theorem State.withInputs_pend (s : State) (es : List Input) : (s.withInputs es).pend = s.pend := rfl
@[simp] theorem State.withInputs_cmd (s : State) (es : List Input) : (s.withInputs es).cmd = s.cmd := rfl
@[simp] theorem State.withInputs_status (s : State) (es : List Input) : (s.withInputs es).status = s.status := rfl
@[simp] theorem State.withInputs_inLen (s : State) (es : List Input) : (s.withInputs es).inLen = s.inLen := rfl
@[simp] theorem State.withInputs_arg0 (s : State) (es : List Input) : (s.withInputs es).arg0 = s.arg0 := rfl
@[simp] theorem State.withInputs_arg1 (s : State) (es : List Input) : (s.withInputs es).arg1 = s.arg1 := rfl
@[simp] theorem State.withInputs_outLen (s : State) (es : List Input) : (s.withInputs es).outLen = s.outLen := rfl
@[simp] theorem State.withInputs_res0 (s : State) (es : List Input) : (s.withInputs es).res0 = s.res0 := rfl
@[simp] theorem State.withInputs_res1 (s : State) (es : List Input) : (s.withInputs es).res1 = s.res1 := rfl
@[simp] theorem State.withInputs_res2 (s : State) (es : List Input) : (s.withInputs es).res2 = s.res2 := rfl
@[simp] theorem State.withInputs_res3 (s : State) (es : List Input) : (s.withInputs es).res3 = s.res3 := rfl
@[simp] theorem State.withInputs_res4 (s : State) (es : List Input) : (s.withInputs es).res4 = s.res4 := rfl
@[simp] theorem State.withInputs_res5 (s : State) (es : List Input) : (s.withInputs es).res5 = s.res5 := rfl
@[simp] theorem State.withInputs_ibuf (s : State) (es : List Input) : (s.withInputs es).ibuf = s.ibuf := rfl
@[simp] theorem State.withInputs_obuf (s : State) (es : List Input) : (s.withInputs es).obuf = s.obuf := rfl
@[simp] theorem State.withInputs_window (s : State) (es : List Input) : (s.withInputs es).window = s.window := rfl
@[simp] theorem State.withInputs_faultRecord (s : State) (es : List Input) : (s.withInputs es).faultRecord = s.faultRecord := rfl
@[simp] theorem State.withInputs_params (s : State) (es : List Input) : (s.withInputs es).params = s.params := rfl
@[simp] theorem State.withInputs_inputs (s : State) (es : List Input) : (s.withInputs es).inputs = es := rfl
@[simp] theorem State.withInputs_reads (s : State) (es : List Input) : (s.withInputs es).reads = s.reads := rfl

/-! ## platformReset -/

@[simp] theorem State.platformReset_engState (s : State) : s.platformReset.engState = .idle := rfl
@[simp] theorem State.platformReset_pend (s : State) : s.platformReset.pend = 0 := rfl
@[simp] theorem State.platformReset_cmd (s : State) : s.platformReset.cmd = 0 := rfl
@[simp] theorem State.platformReset_status (s : State) : s.platformReset.status = 0 := rfl
@[simp] theorem State.platformReset_inLen (s : State) : s.platformReset.inLen = 0 := rfl
@[simp] theorem State.platformReset_arg0 (s : State) : s.platformReset.arg0 = 0 := rfl
@[simp] theorem State.platformReset_arg1 (s : State) : s.platformReset.arg1 = 0 := rfl
@[simp] theorem State.platformReset_outLen (s : State) : s.platformReset.outLen = 0 := rfl
@[simp] theorem State.platformReset_res0 (s : State) : s.platformReset.res0 = 0 := rfl
@[simp] theorem State.platformReset_res1 (s : State) : s.platformReset.res1 = 0 := rfl
@[simp] theorem State.platformReset_res2 (s : State) : s.platformReset.res2 = 0 := rfl
@[simp] theorem State.platformReset_res3 (s : State) : s.platformReset.res3 = 0 := rfl
@[simp] theorem State.platformReset_res4 (s : State) : s.platformReset.res4 = 0 := rfl
@[simp] theorem State.platformReset_res5 (s : State) : s.platformReset.res5 = 0 := rfl
@[simp] theorem State.platformReset_ibuf (s : State) : s.platformReset.ibuf = [] := rfl
@[simp] theorem State.platformReset_obuf (s : State) : s.platformReset.obuf = [] := rfl
@[simp] theorem State.platformReset_window (s : State) : s.platformReset.window = false := rfl
@[simp] theorem State.platformReset_faultRecord (s : State) : s.platformReset.faultRecord = [] := rfl
@[simp] theorem State.platformReset_params (s : State) : s.platformReset.params = s.params := rfl
@[simp] theorem State.platformReset_inputs (s : State) : s.platformReset.inputs = s.inputs := rfl
@[simp] theorem State.platformReset_reads (s : State) : s.platformReset.reads = s.reads := rfl

/-! ## withFaults -/

@[simp] theorem State.withFaults_engState (s : State) (fs : List Fault) : (s.withFaults fs).engState = s.engState := rfl
@[simp] theorem State.withFaults_pend (s : State) (fs : List Fault) : (s.withFaults fs).pend = s.pend := rfl
@[simp] theorem State.withFaults_cmd (s : State) (fs : List Fault) : (s.withFaults fs).cmd = s.cmd := rfl
@[simp] theorem State.withFaults_status (s : State) (fs : List Fault) : (s.withFaults fs).status = s.status := rfl
@[simp] theorem State.withFaults_inLen (s : State) (fs : List Fault) : (s.withFaults fs).inLen = s.inLen := rfl
@[simp] theorem State.withFaults_arg0 (s : State) (fs : List Fault) : (s.withFaults fs).arg0 = s.arg0 := rfl
@[simp] theorem State.withFaults_arg1 (s : State) (fs : List Fault) : (s.withFaults fs).arg1 = s.arg1 := rfl
@[simp] theorem State.withFaults_outLen (s : State) (fs : List Fault) : (s.withFaults fs).outLen = s.outLen := rfl
@[simp] theorem State.withFaults_res0 (s : State) (fs : List Fault) : (s.withFaults fs).res0 = s.res0 := rfl
@[simp] theorem State.withFaults_res1 (s : State) (fs : List Fault) : (s.withFaults fs).res1 = s.res1 := rfl
@[simp] theorem State.withFaults_res2 (s : State) (fs : List Fault) : (s.withFaults fs).res2 = s.res2 := rfl
@[simp] theorem State.withFaults_res3 (s : State) (fs : List Fault) : (s.withFaults fs).res3 = s.res3 := rfl
@[simp] theorem State.withFaults_res4 (s : State) (fs : List Fault) : (s.withFaults fs).res4 = s.res4 := rfl
@[simp] theorem State.withFaults_res5 (s : State) (fs : List Fault) : (s.withFaults fs).res5 = s.res5 := rfl
@[simp] theorem State.withFaults_ibuf (s : State) (fs : List Fault) : (s.withFaults fs).ibuf = s.ibuf := rfl
@[simp] theorem State.withFaults_obuf (s : State) (fs : List Fault) : (s.withFaults fs).obuf = s.obuf := rfl
@[simp] theorem State.withFaults_window (s : State) (fs : List Fault) : (s.withFaults fs).window = s.window := rfl
@[simp] theorem State.withFaults_faultRecord (s : State) (fs : List Fault) : (s.withFaults fs).faultRecord = fs := rfl
@[simp] theorem State.withFaults_params (s : State) (fs : List Fault) : (s.withFaults fs).params = s.params := rfl
@[simp] theorem State.withFaults_inputs (s : State) (fs : List Fault) : (s.withFaults fs).inputs = s.inputs := rfl
@[simp] theorem State.withFaults_reads (s : State) (fs : List Fault) : (s.withFaults fs).reads = s.reads := rfl

/-! ## withPending -/

@[simp] theorem State.withPending_engState (s : State) (w : Word) : (s.withPending w).engState = .busy := rfl
@[simp] theorem State.withPending_pend (s : State) (w : Word) : (s.withPending w).pend = w := rfl
@[simp] theorem State.withPending_cmd (s : State) (w : Word) : (s.withPending w).cmd = w := rfl
@[simp] theorem State.withPending_status (s : State) (w : Word) : (s.withPending w).status = statusStarted := rfl
@[simp] theorem State.withPending_inLen (s : State) (w : Word) : (s.withPending w).inLen = s.inLen := rfl
@[simp] theorem State.withPending_arg0 (s : State) (w : Word) : (s.withPending w).arg0 = s.arg0 := rfl
@[simp] theorem State.withPending_arg1 (s : State) (w : Word) : (s.withPending w).arg1 = s.arg1 := rfl
@[simp] theorem State.withPending_outLen (s : State) (w : Word) : (s.withPending w).outLen = s.outLen := rfl
@[simp] theorem State.withPending_res0 (s : State) (w : Word) : (s.withPending w).res0 = s.res0 := rfl
@[simp] theorem State.withPending_res1 (s : State) (w : Word) : (s.withPending w).res1 = s.res1 := rfl
@[simp] theorem State.withPending_res2 (s : State) (w : Word) : (s.withPending w).res2 = s.res2 := rfl
@[simp] theorem State.withPending_res3 (s : State) (w : Word) : (s.withPending w).res3 = s.res3 := rfl
@[simp] theorem State.withPending_res4 (s : State) (w : Word) : (s.withPending w).res4 = s.res4 := rfl
@[simp] theorem State.withPending_res5 (s : State) (w : Word) : (s.withPending w).res5 = s.res5 := rfl
@[simp] theorem State.withPending_ibuf (s : State) (w : Word) : (s.withPending w).ibuf = s.ibuf := rfl
@[simp] theorem State.withPending_obuf (s : State) (w : Word) : (s.withPending w).obuf = s.obuf := rfl
@[simp] theorem State.withPending_window (s : State) (w : Word) : (s.withPending w).window = true := rfl
@[simp] theorem State.withPending_faultRecord (s : State) (w : Word) : (s.withPending w).faultRecord = [] := rfl
@[simp] theorem State.withPending_params (s : State) (w : Word) : (s.withPending w).params = s.params := rfl
@[simp] theorem State.withPending_inputs (s : State) (w : Word) : (s.withPending w).inputs = .engine :: s.inputs := rfl
@[simp] theorem State.withPending_reads (s : State) (w : Word) : (s.withPending w).reads = s.reads := rfl

end Sys2Proof.Machine
end

