-- ==== Sys2Proof/Laws/Flags.lean ====
section
/-! SUPPORT. The fields of each value STATUS takes (10_state R24, 44_control R231 and R236, 60_exceptions R253). -/

namespace Sys2Proof.Machine

@[simp] theorem busyBit_statusStarted : busyBit statusStarted = true := rfl
@[simp] theorem doneBit_statusStarted : doneBit statusStarted = false := rfl
@[simp] theorem errBit_statusStarted : errBit statusStarted = false := rfl
@[simp] theorem errCode_statusStarted : errCode statusStarted = 0 := rfl
@[simp] theorem legalStatus_statusStarted : legalStatus statusStarted = true := rfl

@[simp] theorem busyBit_statusOk : busyBit statusOk = false := rfl
@[simp] theorem doneBit_statusOk : doneBit statusOk = true := rfl
@[simp] theorem errBit_statusOk : errBit statusOk = false := rfl
@[simp] theorem errCode_statusOk : errCode statusOk = 0 := rfl
@[simp] theorem legalStatus_statusOk : legalStatus statusOk = true := rfl

@[simp] theorem busyBit_statusErr (e : ErrKind) : busyBit (statusErr e) = false := by cases e <;> rfl
@[simp] theorem doneBit_statusErr (e : ErrKind) : doneBit (statusErr e) = true := by cases e <;> rfl
@[simp] theorem errBit_statusErr (e : ErrKind) : errBit (statusErr e) = true := by cases e <;> rfl
@[simp] theorem errCode_statusErr (e : ErrKind) : errCode (statusErr e) = e.code := by cases e <;> rfl
@[simp] theorem legalStatus_statusErr (e : ErrKind) : legalStatus (statusErr e) = true := by cases e <;> rfl

@[simp] theorem busyBit_zero : busyBit 0#32 = false := rfl
@[simp] theorem doneBit_zero : doneBit 0#32 = false := rfl
@[simp] theorem errBit_zero : errBit 0#32 = false := rfl
@[simp] theorem errCode_zero : errCode 0#32 = 0 := rfl
@[simp] theorem legalStatus_zero : legalStatus 0#32 = true := rfl

end Sys2Proof.Machine
end

