-- ==== Sys2Proof/Laws/Memory.lean ====
section
/-! SUPPORT. The laws of the byte memories: reading after writing, ranges, and the canonical form kept by every
operation. -/

namespace Sys2Proof.Machine

/-! ## One byte -/

@[simp] theorem Memory.read_nil (a : Nat) : Memory.read [] a = none := rfl

theorem Memory.read_write_same (m : Memory) (a : Nat) (v : Byte) : (m.write a v).read a = some v := by
  induction m with
  | nil => simp [Memory.write, Memory.read]
  | cons c m ih =>
    obtain ⟨b, w⟩ := c
    simp only [Memory.write]
    split_ifs with h1 h2
    · simp [Memory.read]
    · simp [Memory.read]
    · simp [Memory.read, h2, ih]

theorem Memory.read_write_other (m : Memory) {a c : Nat} (v : Byte) (h : c ≠ a) :
    (m.write a v).read c = m.read c := by
  induction m with
  | nil => simp [Memory.write, Memory.read, h, Memory.unlisted]
  | cons d m ih =>
    obtain ⟨b, w⟩ := d
    simp only [Memory.write]
    split_ifs with h1 h2
    · simp [Memory.read, h]
    · subst h2; simp [Memory.read, h]
    · simp [Memory.read, ih]

theorem Memory.read_write (m : Memory) (a c : Nat) (v : Byte) :
    (m.write a v).read c = if c = a then some v else m.read c := by
  split_ifs with h
  · rw [h, Memory.read_write_same]
  · exact Memory.read_write_other m v h

/-! ## Ranges -/

theorem Memory.read_writeRange (vs : List Byte) (m : Memory) (a c : Nat) :
    (m.writeRange a vs).read c = if a ≤ c ∧ c < a + vs.length then vs[c - a]? else m.read c := by
  induction vs generalizing m a with
  | nil => simp [Memory.writeRange]
  | cons v vs ih =>
    rw [Memory.writeRange, ih, Memory.read_write, List.length_cons]
    by_cases hca : c = a
    · subst hca; simp
    · by_cases h : a ≤ c ∧ c < a + (vs.length + 1)
      · obtain ⟨k, rfl⟩ : ∃ k, c = a + 1 + k := ⟨c - a - 1, by omega⟩
        rw [if_pos (by omega), if_pos h, show a + 1 + k - (a + 1) = k by omega,
          show a + 1 + k - a = k + 1 by omega, List.getElem?_cons_succ]
      · rw [if_neg (by omega), if_neg hca, if_neg h]

theorem Memory.writeRange_holds (m : Memory) (a : Nat) (vs : List Byte) : (m.writeRange a vs).Holds a vs := by
  intro k hk
  rw [Memory.read_writeRange, if_pos (by omega), Nat.add_sub_cancel_left]

theorem Memory.read_writeRange_outside (m : Memory) (a c : Nat) (vs : List Byte) (h : c < a ∨ a + vs.length ≤ c) :
    (m.writeRange a vs).read c = m.read c := by
  rw [Memory.read_writeRange, if_neg (by omega)]

/-- Everything `readRange` can answer. -/
theorem Memory.readRange_eq_some (m : Memory) (a n : Nat) (bs : List Byte) :
    m.readRange a n = some bs ↔ bs.length = n ∧ m.Holds a bs := by
  induction n generalizing a bs with
  | zero =>
    simp only [Memory.readRange, Option.some.injEq]
    constructor
    · rintro rfl; exact ⟨rfl, fun k hk => absurd hk (by simp)⟩
    · rintro ⟨h, -⟩; exact (List.length_eq_zero_iff.mp h).symm
  | succ n ih =>
    simp only [Memory.readRange]
    constructor
    · intro h
      split at h
      · rename_i v vs hv hvs
        obtain ⟨hl, hh⟩ := (ih _ _).mp hvs
        obtain rfl : v :: vs = bs := by simpa using h
        refine ⟨by simp [hl], fun k hk => ?_⟩
        cases k with
        | zero => simpa using hv
        | succ k =>
          have := hh k (by simpa using hk)
          rw [show a + (k + 1) = a + 1 + k by omega, this, List.getElem?_cons_succ]
      · cases h
    · rintro ⟨hl, hh⟩
      cases bs with
      | nil => simp at hl
      | cons v vs =>
        have hv : m.read a = some v := by simpa using hh 0 (by simp)
        have hvs : m.readRange (a + 1) n = some vs := by
          refine (ih _ _).mpr ⟨by simpa using hl, fun k hk => ?_⟩
          have := hh (k + 1) (by simpa using hk)
          rwa [show a + (k + 1) = a + 1 + k by omega, List.getElem?_cons_succ] at this
        rw [hv, hvs]

theorem Memory.readRange_of_holds {m : Memory} {a : Nat} {bs : List Byte} (h : m.Holds a bs) :
    m.readRange a bs.length = some bs := (Memory.readRange_eq_some m a _ bs).mpr ⟨rfl, h⟩

/-- A range reads exactly when each of its bytes was written. -/
theorem Memory.readRange_isSome (m : Memory) (a n : Nat) :
    (m.readRange a n).isSome = true ↔ ∀ k, k < n → (m.read (a + k)).isSome = true := by
  induction n generalizing a with
  | zero => simp [Memory.readRange]
  | succ n ih =>
    have key : (m.readRange a (n + 1)).isSome = true ↔
        (m.read a).isSome = true ∧ (m.readRange (a + 1) n).isSome = true := by
      simp only [Memory.readRange]
      cases m.read a <;> cases m.readRange (a + 1) n <;> simp
    rw [key, ih]
    constructor
    · rintro ⟨h0, h1⟩ k hk
      cases k with
      | zero => simpa using h0
      | succ k => rw [show a + (k + 1) = a + 1 + k by omega]; exact h1 k (by omega)
    · intro h
      exact ⟨by simpa using h 0 (by omega),
        fun k hk => by rw [show a + 1 + k = a + (k + 1) by omega]; exact h (k + 1) (by omega)⟩

theorem Memory.readRange_congr {m m' : Memory} {a n : Nat} (h : ∀ k, k < n → m.read (a + k) = m'.read (a + k)) :
    m.readRange a n = m'.readRange a n := by
  induction n generalizing a with
  | zero => rfl
  | succ n ih =>
    have h0 : m.read a = m'.read a := by simpa using h 0 (by omega)
    have h1 : m.readRange (a + 1) n = m'.readRange (a + 1) n :=
      ih fun k hk => by
        have := h (k + 1) (by omega)
        rwa [show a + (k + 1) = a + 1 + k by omega] at this
    simp only [Memory.readRange, h0, h1]

/-! ## The canonical form -/

theorem Memory.wf_iff (m : Memory) : m.wf = true ↔ m.Pairwise fun c d => c.1 < d.1 := by simp [Memory.wf]

theorem Memory.wf_nil : Memory.wf [] = true := by simp [Memory.wf]

theorem Memory.mem_write {m : Memory} {a : Nat} {v : Byte} {d : Host.Cell} (h : d ∈ m.write a v) :
    d.1 = a ∨ d ∈ m := by
  induction m with
  | nil => simp only [Memory.write, List.mem_singleton] at h; exact .inl (by rw [h])
  | cons c m ih =>
    obtain ⟨b, w⟩ := c
    simp only [Memory.write] at h
    split_ifs at h with h1 h2
    · rcases List.mem_cons.mp h with rfl | h
      · exact .inl rfl
      · exact .inr h
    · rcases List.mem_cons.mp h with rfl | h
      · exact .inl rfl
      · exact .inr (List.mem_cons_of_mem _ h)
    · rcases List.mem_cons.mp h with rfl | h
      · exact .inr List.mem_cons_self
      · exact (ih h).imp_right (List.mem_cons_of_mem _)

theorem Memory.wf_write {m : Memory} (h : m.wf = true) (a : Nat) (v : Byte) : (m.write a v).wf = true := by
  rw [Memory.wf_iff] at *
  induction m with
  | nil => simp [Memory.write]
  | cons c m ih =>
    obtain ⟨b, w⟩ := c
    obtain ⟨hc, hm⟩ := List.pairwise_cons.mp h
    simp only [Memory.write]
    split_ifs with h1 h2
    · refine List.pairwise_cons.mpr ⟨fun d hd => ?_, h⟩
      rcases List.mem_cons.mp hd with rfl | hd
      · exact h1
      · exact lt_trans h1 (hc d hd)
    · subst h2; exact List.pairwise_cons.mpr ⟨hc, hm⟩
    · refine List.pairwise_cons.mpr ⟨fun d hd => ?_, ih hm⟩
      rcases Memory.mem_write hd with hd | hd
      · show b < d.1
        omega
      · exact hc d hd

theorem Memory.wf_writeRange {m : Memory} (h : m.wf = true) (a : Nat) (vs : List Byte) :
    (m.writeRange a vs).wf = true := by
  induction vs generalizing m a with
  | nil => exact h
  | cons v vs ih => exact ih (Memory.wf_write h a v) (a + 1)

/-- A byte is listed exactly where it reads. -/
theorem Memory.read_isSome (m : Memory) (a : Nat) : (m.read a).isSome = true ↔ ∃ v, (a, v) ∈ m := by
  induction m with
  | nil => simp
  | cons c m ih =>
    obtain ⟨b, w⟩ := c
    simp only [Memory.read]
    split_ifs with h
    · subst h; simp
    · simp [ih, h]

end Sys2Proof.Machine
end

