-- ==== Sys2Proof/Laws/Ops.lean ====
section
/-! SUPPORT. What each shared operation can do, said once: the checks before a command's work, the two completions, and the
inversion of `exec`. -/

namespace Sys2Proof.Machine

/-! ## The shared checks -/

/-- `withInput` answers a next state only by going on with the bytes it read. -/
theorem withInput_eq_next {s t : State} {a n : Nat} {k : List Byte → Result} :
    s.withInput a n k = .next t ↔ ∃ bs, bs.length = n ∧ s.ibuf.Holds a bs ∧ k bs = .next t := by
  unfold State.withInput
  cases h : s.ibuf.readRange a n with
  | none =>
    constructor
    · intro hk; cases hk
    rintro ⟨bs, hl, hh, -⟩
    have := (Memory.readRange_eq_some _ _ _ _).mpr ⟨hl, hh⟩
    rw [h] at this
    cases this
  | some bs =>
    constructor
    · intro hk
      obtain ⟨hl, hh⟩ := (Memory.readRange_eq_some _ _ _ _).mp h
      exact ⟨bs, hl, hh, hk⟩
    · rintro ⟨bs', hl, hh, hk⟩
      obtain rfl : bs = bs' := by
        have := (Memory.readRange_eq_some _ _ _ _).mpr ⟨hl, hh⟩
        rw [h] at this
        exact Option.some.inj this
      exact hk

theorem withInput_of_holds {s : State} {a : Nat} {bs : List Byte} (h : s.ibuf.Holds a bs) (k : List Byte → Result) :
    s.withInput a bs.length k = k bs := by
  rw [State.withInput, Memory.readRange_of_holds h]

/-- `withInput` faults when a byte it needs was never written. -/
theorem withInput_of_unwritten {s : State} {a n j : Nat} (hj : j < n) (h : s.ibuf.read (a + j) = none)
    (k : List Byte → Result) : s.withInput a n k = .fault .uninitialisedRead := by
  unfold State.withInput
  cases hr : s.ibuf.readRange a n with
  | none => rfl
  | some bs =>
    have := (Memory.readRange_isSome s.ibuf a n).mp (by rw [hr]; rfl) j hj
    rw [h] at this
    cases this

theorem withCount_of_le {s : State} (h : s.inLen.toNat ≤ s.params.bufBytes) (k : Nat → Result) :
    s.withCount k = k s.inLen.toNat := if_neg (Nat.not_lt.mpr h)

theorem withCount_of_gt {s : State} (h : s.params.bufBytes < s.inLen.toNat) (k : Nat → Result) :
    s.withCount k = .next (s.raise .invalidArgument) := if_pos h

/-- `withCount` answers a next state by the error of the IN_LEN bound, or by going on. -/
theorem withCount_eq_next {s t : State} {k : Nat → Result} (h : s.withCount k = .next t) :
    t = s.raise .invalidArgument ∨ (s.inLen.toNat ≤ s.params.bufBytes ∧ k s.inLen.toNat = .next t) := by
  by_cases hb : s.inLen.toNat ≤ s.params.bufBytes
  · exact .inr ⟨hb, by rwa [withCount_of_le hb] at h⟩
  · rw [withCount_of_gt (Nat.lt_of_not_le hb)] at h
    exact .inl (by cases h; rfl)

/-! ## The completions -/

theorem finishOk_inputsKept (s : State) (n r0 r1 r2 r3 r4 r5 : Word) :
    InputsKept s (s.finishOk n r0 r1 r2 r3 r4 r5) :=
  ⟨rfl, rfl, rfl, rfl, rfl, rfl, rfl, rfl, rfl, rfl, rfl⟩

theorem output_inputsKept (s : State) (k : List Byte) (n r0 r1 r2 r3 r4 r5 : Word) :
    InputsKept s ((s.writeObuf k).finishOk n r0 r1 r2 r3 r4 r5) :=
  ⟨rfl, rfl, rfl, rfl, rfl, rfl, rfl, rfl, rfl, rfl, rfl⟩

theorem finishOk_succeeds (s : State) (n r0 r1 r2 r3 r4 r5 : Word) :
    Succeeds (s.finishOk n r0 r1 r2 r3 r4 r5) n r0 r1 r2 r3 r4 r5 :=
  ⟨rfl, rfl, rfl, rfl, rfl, rfl, rfl, rfl, rfl⟩

theorem output_outputIs (s : State) (k : List Byte) (n r0 r1 r2 r3 r4 r5 : Word) :
    OutputIs s ((s.writeObuf k).finishOk n r0 r1 r2 r3 r4 r5) k :=
  ⟨Memory.writeRange_holds _ _ _, fun a ha => Memory.read_writeRange_outside _ _ _ _ (.inr (by omega))⟩

theorem statusErr_eq (e : ErrKind) : statusErr e = BitVec.ofNat 32 (6 + 16 * e.code.toNat) := by
  cases e <;> rfl

theorem raise_raises (s : State) (e : ErrKind) : Raises s (s.raise e) e.code.toNat where
  status := statusErr_eq e
  engState := rfl
  outLen := rfl
  res0 := rfl
  res1 := rfl
  res2 := rfl
  res3 := rfl
  res4 := rfl
  res5 := rfl
  obuf := fun _ => rfl
  kept := ⟨rfl, rfl, rfl, rfl, rfl, rfl, rfl, rfl, rfl, rfl, rfl⟩

theorem writeObuf_nil (s : State) : s.writeObuf [] = s := rfl

/-! ## What the pure functions answer -/

theorem leBytes_length (n v : Nat) : (leBytes n v).length = n := by
  induction n generalizing v with
  | zero => rfl
  | succ n ih => simp [leBytes, ih]

theorem packetBody_length (c1 c2 : Half) (p : List Byte) : (packetBody c1 c2 p).length = p.length + 9 := by
  simp [packetBody, preamble, be16]

theorem makePacket_length {c1 c2 : Half} {p k : List Byte} (h : makePacket c1 c2 p = .ok k) :
    k.length = p.length + pktOverhead := by
  unfold makePacket at h
  split_ifs at h
  · cases h
    simp [packetBody_length, be16, pktOverhead]

theorem encodeCanHeader_length {ts : Bool} {id : Word} {fd ext brs : Bool} {k : List Byte}
    (h : encodeCanHeader ts id fd ext brs = .ok k) : k.length = canHdrLen := by
  unfold encodeCanHeader at h
  split_ifs at h
  cases h
  exact leBytes_length _ _

theorem frameDataLen_le (n : Nat) : frameDataLen n ≤ dataLenMax ∧ frameDataLen n ≤ n - hdrLen := by
  unfold frameDataLen dataLenMax dataLenClamp
  split_ifs <;> omega

theorem decodeFrame_dataLen {p : Params} {bs : List Byte} {f : Frame} (h : decodeFrame p bs = .ok f) :
    f.dataLen = frameDataLen bs.length ∧ f.data = (bs.drop hdrLen).take (frameDataLen bs.length) ∧
      f.data.length = f.dataLen := by
  unfold decodeFrame at h
  simp only at h
  split_ifs at h
  cases h
  refine ⟨rfl, rfl, ?_⟩
  have := frameDataLen_le bs.length
  simp only [List.length_take, List.length_drop]
  omega

/-! ## Everything a command can do -/

/-- A successful completion that wrote the `n` bytes `k`. -/
def Completes (s t : State) (k : List Byte) : Prop :=
  k.length ≤ 65546 ∧
    ∃ r0 r1 r2 r3 r4 r5, t = (s.writeObuf k).finishOk (BitVec.ofNat 32 k.length) r0 r1 r2 r3 r4 r5

/-- A command that answers a next state either raised an error or completed with some output. -/
theorem exec_next_cases {i : Instr} {s t : State} (h : exec i s = .next t) :
    (∃ e, t = s.raise e) ∨ ∃ k, Completes s t k := by
  cases i with
  | nop => cases h; exact .inr ⟨[], by simp, 0, 0, 0, 0, 0, 0, rfl⟩
  | crc16 =>
    rw [exec, execCrc16] at h
    obtain rfl | ⟨-, h⟩ := withCount_eq_next h
    · exact .inl ⟨_, rfl⟩
    obtain ⟨bs, -, -, h⟩ := withInput_eq_next.mp h
    cases h
    exact .inr ⟨[], by simp, _, 0, 0, 0, 0, 0, rfl⟩
  | makePacket =>
    rw [exec, execMakePacket] at h
    obtain rfl | ⟨-, h⟩ := withCount_eq_next h
    · exact .inl ⟨_, rfl⟩
    split_ifs at h with hn
    · cases h; exact .inl ⟨_, rfl⟩
    obtain ⟨p, hl, -, h⟩ := withInput_eq_next.mp h
    split at h
    · cases h; exact .inl ⟨_, rfl⟩
    · rename_i k hk
      cases h
      have hlen := makePacket_length hk
      rw [hl] at hlen
      unfold maxPayload at hn
      refine .inr ⟨k, by rw [hlen]; unfold pktOverhead; omega, _, 0, 0, 0, 0, 0, by rw [hlen]⟩
  | parsePacket =>
    rw [exec, execParsePacket] at h
    obtain rfl | ⟨-, h⟩ := withCount_eq_next h
    · exact .inl ⟨_, rfl⟩
    split_ifs at h with h1
    · cases h; exact .inl ⟨_, rfl⟩
    obtain ⟨hd, -, -, h⟩ := withInput_eq_next.mp h
    split_ifs at h with h2
    · cases h; exact .inl ⟨_, rfl⟩
    dsimp only at h
    split_ifs at h with h3
    · cases h; exact .inl ⟨_, rfl⟩
    obtain ⟨bs, hl, -, h⟩ := withInput_eq_next.mp h
    split_ifs at h with h4
    · cases h; exact .inl ⟨_, rfl⟩
    cases h
    have hlen : ((bs.drop pktHeader).take (declaredLength hd)).length = declaredLength hd := by
      simp only [List.length_take, List.length_drop, hl, pktOverhead, pktHeader]; omega
    have hb : declaredLength hd < 2 ^ 16 := (be16At hd 7).isLt
    refine .inr ⟨_, by rw [hlen]; omega, _, _, _, _, 0, 0, by rw [hlen]⟩
  | encodeCanHeader =>
    simp only [exec, execEncodeCanHeader] at h
    split at h
    · cases h; exact .inl ⟨_, rfl⟩
    · rename_i k hk
      cases h
      have hlen := encodeCanHeader_length hk
      exact .inr ⟨k, by rw [hlen]; decide, _, _, 0, 0, 0, 0, by rw [hlen]⟩
  | decodeFrame =>
    rw [exec, execDecodeFrame] at h
    obtain rfl | ⟨-, h⟩ := withCount_eq_next h
    · exact .inl ⟨_, rfl⟩
    split_ifs at h with h1
    · cases h; exact .inl ⟨_, rfl⟩
    obtain ⟨b0, -, -, h⟩ := withInput_eq_next.mp h
    split_ifs at h with h2
    · cases h; exact .inl ⟨_, rfl⟩
    obtain ⟨hd, -, -, h⟩ := withInput_eq_next.mp h
    obtain ⟨data, -, -, h⟩ := withInput_eq_next.mp h
    split at h
    · cases h; exact .inl ⟨_, rfl⟩
    · rename_i f hf
      cases h
      obtain ⟨hd1, -, hd3⟩ := decodeFrame_dataLen hf
      have := (frameDataLen_le (hd ++ data).length).1
      unfold dataLenMax at this
      exact .inr ⟨f.data, by omega, _, _, _, _, _, _, by rw [hd3]⟩

/-- No command of the model is refused. -/
theorem exec_ne_refused (i : Instr) (s : State) (q : Refusal) : exec i s ≠ .refused q := by
  cases i
  · intro h; cases h
  all_goals
    simp only [exec, execCrc16, execMakePacket, execParsePacket, execEncodeCanHeader, execDecodeFrame,
      State.withCount, State.withInput]
    repeat' split
    all_goals (intro h; cases h)

end Sys2Proof.Machine
end

