-- ==== Sys2Proof/Laws/Commands.lean ====
section
/-! SUPPORT. One equation per path through each command: what the command answers once the bytes it reads are known. The
claims about a command cite these and never unfold its meaning. -/

namespace Sys2Proof.Machine

/-! ## Reading IBUF from offset 0 -/

theorem bufBytes_ge (p : Params) : 65546 ≤ p.bufBytes := Nat.le_add_right _ _

theorem bufBytes_le (p : Params) : p.bufBytes ≤ 131072 := by
  have := p.bufExtra.isLt
  unfold Params.bufBytes
  omega

theorem written_iff_holds (m : Memory) (n : Nat) : m.Written n ↔ ∃ bs : List Byte, bs.length = n ∧ m.Holds 0 bs := by
  constructor
  · intro h
    have hs : (m.readRange 0 n).isSome = true :=
      (Memory.readRange_isSome m 0 n).mpr fun k hk => by rw [Nat.zero_add]; exact h k hk
    obtain ⟨bs, hb⟩ := Option.isSome_iff_exists.mp hs
    exact ⟨bs, (Memory.readRange_eq_some _ _ _ _).mp hb⟩
  · rintro ⟨bs, rfl, hh⟩ k hk
    have := hh k hk
    rw [Nat.zero_add] at this
    simp [this, hk]

theorem withInput_of_not_written {s : State} {n : Nat} (h : ¬ s.ibuf.Written n) (k : List Byte → Result) :
    s.withInput 0 n k = .fault .uninitialisedRead := by
  simp only [Memory.Written, not_forall] at h
  obtain ⟨j, hj, hn⟩ := h
  exact withInput_of_unwritten hj (by simpa using hn) k

theorem withInput_of_length {s : State} {a n : Nat} {bs : List Byte} (hl : bs.length = n) (h : s.ibuf.Holds a bs)
    (k : List Byte → Result) : s.withInput a n k = k bs := hl ▸ withInput_of_holds h k

/-- A prefix of the bytes a memory holds is held too. -/
theorem Memory.Holds.take {m : Memory} {bs : List Byte} (h : m.Holds 0 bs) (n : Nat) : m.Holds 0 (bs.take n) := by
  intro k hk
  have hk' : k < n ∧ k < bs.length := by simpa using hk
  rw [h k hk'.2, List.getElem?_take, if_pos hk'.1]

/-- Two byte sequences of one length held at one offset are equal. -/
theorem Memory.Holds.unique {m : Memory} {a : Nat} {bs cs : List Byte} (h : m.Holds a bs) (h' : m.Holds a cs)
    (hl : bs.length = cs.length) : bs = cs := by
  apply List.ext_getElem?
  intro k
  by_cases hk : k < bs.length
  · rw [← h k hk, h' k (hl ▸ hk)]
  · rw [List.getElem?_eq_none (by omega), List.getElem?_eq_none (by omega)]

theorem peek_of_holds {s : State} {bs : List Byte} {k : Nat} (h : s.ibuf.Holds 0 bs) (hk : k < bs.length) :
    s.peek k = byteAt bs k := by
  have := h k hk
  rw [Nat.zero_add] at this
  simp [State.peek, byteAt, this]

/-! ## Fields of a packet header -/

theorem be16At_toNat (bs : List Byte) (k : Nat) :
    (be16At bs k).toNat = 256 * (byteAt bs k).toNat + (byteAt bs (k + 1)).toNat := by
  unfold be16At
  rw [BitVec.toNat_append, Nat.shiftLeft_eq, Nat.mul_comm, ← Nat.two_pow_add_eq_or_of_lt]
  exact (byteAt bs (k + 1)).isLt

theorem hasPreamble_eq {bs : List Byte} (h : 3 ≤ bs.length) :
    hasPreamble bs = (byteAt bs 0 == 0xFF && byteAt bs 1 == 0x55 && byteAt bs 2 == 0xAA) := by
  match bs, h with
  | a :: b :: c :: l, _ => simp [hasPreamble, preamble, byteAt, Bool.and_assoc]

theorem peekPreamble_of_holds {s : State} {hd : List Byte} (h : s.ibuf.Holds 0 hd) (hl : 3 ≤ hd.length) :
    s.peekPreamble = hasPreamble hd := by
  rw [hasPreamble_eq hl, State.peekPreamble]
  simp (disch := omega) only [peek_of_holds h]

theorem peekLength_of_holds {s : State} {hd : List Byte} (h : s.ibuf.Holds 0 hd) (hl : 9 ≤ hd.length) :
    s.peekLength = declaredLength hd := by
  rw [declaredLength, be16At_toNat, State.peekLength]
  simp (disch := omega) only [peek_of_holds h]

/-! ## NOP and CRC16 -/

theorem exec_nop (s : State) : exec .nop s = .next (s.finishOk 0 0 0 0 0 0 0) := rfl

theorem exec_crc16_large {s : State} (h : s.params.bufBytes < s.inLen.toNat) :
    exec .crc16 s = .next (s.raise .invalidArgument) := by
  rw [exec, execCrc16, withCount_of_gt h]

theorem exec_crc16_unwritten {s : State} (h : s.inLen.toNat ≤ s.params.bufBytes)
    (hw : ¬ s.ibuf.Written s.inLen.toNat) : exec .crc16 s = .fault .uninitialisedRead := by
  rw [exec, execCrc16, withCount_of_le h, withInput_of_not_written hw]

theorem exec_crc16_of_holds {s : State} {bs : List Byte} (h : s.inLen.toNat ≤ s.params.bufBytes)
    (hl : bs.length = s.inLen.toNat) (hh : s.ibuf.Holds 0 bs) :
    exec .crc16 s = .next (s.finishOk 0 ((crc16 bs s.crcInit).setWidth 32) 0 0 0 0 0) := by
  rw [exec, execCrc16, withCount_of_le h, withInput_of_length hl hh]

/-! ## MAKE_PACKET -/

theorem makePacket_eq {c1 c2 : Half} {p : List Byte} (h : p.length ≤ maxPayload) :
    makePacket c1 c2 p = .ok (packetBody c1 c2 p ++ be16 (crc16 (packetBody c1 c2 p) crcInitFresh)) :=
  if_neg (Nat.not_lt.mpr h)

theorem exec_makePacket_large {s : State} (h : s.params.bufBytes < s.inLen.toNat ∨ maxPayload < s.inLen.toNat) :
    exec .makePacket s = .next (s.raise .invalidArgument) := by
  rw [exec, execMakePacket]
  by_cases hb : s.inLen.toNat ≤ s.params.bufBytes
  · rw [withCount_of_le hb, if_pos (by omega)]
  · rw [withCount_of_gt (by omega)]

theorem exec_makePacket_unwritten {s : State} (h : s.inLen.toNat ≤ s.params.bufBytes)
    (h' : s.inLen.toNat ≤ maxPayload) (hw : ¬ s.ibuf.Written s.inLen.toNat) :
    exec .makePacket s = .fault .uninitialisedRead := by
  rw [exec, execMakePacket, withCount_of_le h, if_neg (by omega), withInput_of_not_written hw]

theorem exec_makePacket_of_holds {s : State} {p k : List Byte} (h : s.inLen.toNat ≤ s.params.bufBytes)
    (hl : p.length = s.inLen.toNat) (hh : s.ibuf.Holds 0 p) (hk : makePacket s.cmd1 s.cmd2 p = .ok k) :
    exec .makePacket s = .next ((s.writeObuf k).finishOk (BitVec.ofNat 32 (p.length + pktOverhead))
      ((be16At k (p.length + pktHeader)).setWidth 32) 0 0 0 0 0) := by
  have hm : s.inLen.toNat ≤ maxPayload := by
    by_contra hc
    rw [makePacket, if_pos (by omega)] at hk
    cases hk
  rw [exec, execMakePacket, withCount_of_le h, if_neg (by omega), withInput_of_length hl hh, hk, ← hl]

/-! ## PARSE_PACKET -/

theorem exec_parsePacket_large {s : State} (h : s.params.bufBytes < s.inLen.toNat) :
    exec .parsePacket s = .next (s.raise .invalidArgument) := by
  rw [exec, execParsePacket, withCount_of_gt h]

theorem exec_parsePacket_short {s : State} (h : s.inLen.toNat < pktOverhead) :
    exec .parsePacket s = .next (s.raise .truncatedPacket) := by
  have := bufBytes_ge s.params
  have hp : pktOverhead = 11 := rfl
  rw [exec, execParsePacket, withCount_of_le (by omega), if_pos h]

theorem exec_parsePacket_unwritten_header {s : State} (h : s.inLen.toNat ≤ s.params.bufBytes)
    (h' : pktOverhead ≤ s.inLen.toNat) (hw : ¬ s.ibuf.Written pktHeader) :
    exec .parsePacket s = .fault .uninitialisedRead := by
  rw [exec, execParsePacket, withCount_of_le h, if_neg (by omega), withInput_of_not_written hw]

/-- With the nine header bytes known, the command goes on to the preamble and the length. -/
theorem exec_parsePacket_of_header {s : State} {hd : List Byte} (h : s.inLen.toNat ≤ s.params.bufBytes)
    (h' : pktOverhead ≤ s.inLen.toNat) (hl : hd.length = pktHeader) (hh : s.ibuf.Holds 0 hd) :
    exec .parsePacket s =
      if hasPreamble hd = false then .next (s.raise .framingError)
      else if s.inLen.toNat < declaredLength hd + pktOverhead then .next (s.raise .truncatedPacket)
      else s.withInput 0 (declaredLength hd + pktOverhead) fun bs =>
        if packetCrc bs (declaredLength hd) ≠ be16At bs (pktHeader + declaredLength hd) then
          .next (s.raise .crcMismatch)
        else
          .next ((s.writeObuf ((bs.drop pktHeader).take (declaredLength hd))).finishOk
            (BitVec.ofNat 32 (declaredLength hd)) ((be16At hd 3).setWidth 32) ((be16At hd 5).setWidth 32)
            (BitVec.ofNat 32 (declaredLength hd)) ((packetCrc bs (declaredLength hd)).setWidth 32) 0 0) := by
  rw [exec, execParsePacket, withCount_of_le h, if_neg (by omega), withInput_of_length hl hh]
  cases hasPreamble hd <;> rfl

/-! ## ENCODE_CAN_HEADER -/

theorem exec_encodeCanHeader_error {s : State} (h : maxCanId s.extended < s.canId.toNat) :
    exec .encodeCanHeader s = .next (s.raise .idOutOfRange) := by
  rw [exec, execEncodeCanHeader, encodeCanHeader, if_pos h]

theorem exec_encodeCanHeader_ok {s : State} {k : List Byte}
    (hk : encodeCanHeader s.tsEnabled s.canId s.fd s.extended s.brs = .ok k) :
    exec .encodeCanHeader s = .next ((s.writeObuf k).finishOk (BitVec.ofNat 32 canHdrLen)
      (BitVec.ofNat 32 (leInt (k.take 4))) ((byteAt k 4).setWidth 32) 0 0 0 0) := by
  rw [exec, execEncodeCanHeader, hk]

/-! ## DECODE_FRAME -/

theorem exec_decodeFrame_large {s : State} (h : s.params.bufBytes < s.inLen.toNat) :
    exec .decodeFrame s = .next (s.raise .invalidArgument) := by
  rw [exec, execDecodeFrame, withCount_of_gt h]

theorem exec_decodeFrame_short {s : State} (h : s.inLen.toNat < hdrLen) :
    exec .decodeFrame s = .next (s.raise .truncatedFrame) := by
  have := bufBytes_ge s.params
  have hp : hdrLen = 15 := rfl
  rw [exec, execDecodeFrame, withCount_of_le (by omega), if_pos h]

/-- With byte 0 known, the command goes on to the frame kind. -/
theorem exec_decodeFrame_of_kind {s : State} {b0 : Byte} (h : s.inLen.toNat ≤ s.params.bufBytes)
    (h' : hdrLen ≤ s.inLen.toNat) (hb : s.ibuf.read 0 = some b0) :
    exec .decodeFrame s =
      if b0.getLsbD 0 = true then .next (s.raise .unsupportedFrameKind)
      else s.withInput 0 hdrLen fun hd => s.withInput hdrLen (frameDataLen s.inLen.toNat) fun data =>
        match decodeFrame s.params (hd ++ data) with
        | .error e => .next (s.raise e)
        | .ok f =>
          .next ((s.writeObuf f.data).finishOk (BitVec.ofNat 32 f.dataLen) f.res0 f.id f.routeId f.timestampNs
            f.timestampUsLow f.timestampUsHigh) := by
  have hh : s.ibuf.Holds 0 [b0] := by
    intro k hk
    obtain rfl : k = 0 := by simpa using hk
    simpa using hb
  rw [exec, execDecodeFrame, withCount_of_le h, if_neg (by omega), withInput_of_length (n := 1) rfl hh]
  rfl

theorem exec_decodeFrame_unwritten_kind {s : State} (h : s.inLen.toNat ≤ s.params.bufBytes)
    (h' : hdrLen ≤ s.inLen.toNat) (hb : s.ibuf.read 0 = none) : exec .decodeFrame s = .fault .uninitialisedRead := by
  rw [exec, execDecodeFrame, withCount_of_le h, if_neg (by omega),
    withInput_of_unwritten (j := 0) (by omega) (by simpa using hb)]

/-- With header and data known, the command gives the decoded frame. -/
theorem exec_decodeFrame_of_holds {s : State} {hd data : List Byte} {f : Frame}
    (h : s.inLen.toNat ≤ s.params.bufBytes) (h' : hdrLen ≤ s.inLen.toNat) (hl : hd.length = hdrLen)
    (hh : s.ibuf.Holds 0 hd) (kind : (byteAt hd 0).getLsbD 0 = false) (hdl : data.length = frameDataLen s.inLen.toNat)
    (hdh : s.ibuf.Holds hdrLen data) (hf : decodeFrame s.params (hd ++ data) = .ok f) :
    exec .decodeFrame s =
      .next ((s.writeObuf f.data).finishOk (BitVec.ofNat 32 f.dataLen) f.res0 f.id f.routeId f.timestampNs
        f.timestampUsLow f.timestampUsHigh) := by
  have h15 : hdrLen = 15 := rfl
  have hb : s.ibuf.read 0 = some (byteAt hd 0) := by
    have := hh 0 (by omega)
    simp only [Nat.add_zero] at this
    rw [this, byteAt, List.getD_eq_getElem?_getD, List.getElem?_eq_getElem (by omega)]
    rfl
  rw [exec_decodeFrame_of_kind h h' hb, if_neg (by rw [kind]; decide), withInput_of_length hl hh,
    withInput_of_length hdl hdh, hf]

end Sys2Proof.Machine
end

