-- ==== Sys2Proof/Laws/PerInstr.lean ====
section
/-! SUPPORT. Per-instruction facts about the commands as syntax: the word of each command has RSVD zero and an OP below 6
(30_encoding R90, R91). -/

namespace Sys2Proof.Laws.EncodedWord

/-- The command is well formed, and its word has RSVD = 0 and OP at most 5. -/
def Statement (i : Instr) : Prop :=
  i.wellFormed = true ∧ rsvdField (encode i) = 0 ∧ (opField (encode i)).toNat ≤ 5

theorem nop : Statement .nop := by unfold Statement; decide

theorem crc16 : Statement .crc16 := by unfold Statement; decide

theorem makePacket : Statement .makePacket := by unfold Statement; decide

theorem parsePacket : Statement .parsePacket := by unfold Statement; decide

theorem encodeCanHeader : Statement .encodeCanHeader := by unfold Statement; decide

theorem decodeFrame : Statement .decodeFrame := by unfold Statement; decide

end Sys2Proof.Laws.EncodedWord
end

