-- ==== Sys2Proof/Laws/Step.lean ====
section
/-! SUPPORT. What a host access and a step can do, said once: the inversions that the claims about every step cite. -/

namespace Sys2Proof.Machine

/-! ## Host accesses -/

/-- HostHazard is the only fault of the busy window, and is raised exactly where the window is open and does not allow the
access. -/
theorem hazard_eq (s : State) (allowed : Bool) :
    s.hazard allowed = if s.windowOpen = true ∧ allowed = false then [.hostHazard] else [] := by
  unfold State.hazard
  cases s.windowOpen <;> cases allowed <;> rfl

theorem hazard_eq_nil {s : State} {allowed : Bool} :
    s.hazard allowed = [] ↔ s.windowOpen = false ∨ allowed = true := by
  rw [hazard_eq]
  cases s.windowOpen <;> cases allowed <;> simp

theorem hostHazard_mem_hazard {s : State} {allowed : Bool} :
    .hostHazard ∈ s.hazard allowed ↔ s.windowOpen = true ∧ allowed = false := by
  rw [hazard_eq]
  cases s.windowOpen <;> cases allowed <;> simp

theorem eq_of_mem_hazard {s : State} {allowed : Bool} {f : Fault} (h : f ∈ s.hazard allowed) : f = .hostHazard := by
  rw [hazard_eq] at h
  split_ifs at h
  · simpa using h
  · cases h

/-- Everything a host read can answer. -/
theorem hostRead_cases (s : State) (off : Addr) (width : Nat) :
    (busTarget s.params off width = none ∧ hostRead s off width = .error (s.hazard false ++ [.hostBusError])) ∨
    ∃ t, busTarget s.params off width = some t ∧
      ((∃ v, s.valueAt width t = some v ∧ s.hazard (allowedInWindow t) = [] ∧ hostRead s off width = .ok v) ∨
        (s.valueAt width t ≠ none ∧ s.hazard (allowedInWindow t) ≠ [] ∧
          hostRead s off width = .error (s.hazard (allowedInWindow t))) ∨
        (s.valueAt width t = none ∧
          hostRead s off width = .error (s.hazard (allowedInWindow t) ++ [.uninitialisedRead]))) := by
  unfold hostRead
  cases busTarget s.params off width with
  | none => exact .inl ⟨rfl, rfl⟩
  | some t =>
    refine .inr ⟨t, rfl, ?_⟩
    dsimp only
    cases s.valueAt width t <;> cases s.hazard (allowedInWindow t) <;> simp

theorem hostRead_eq_ok {s : State} {off : Addr} {width : Nat} {v : Word} (h : hostRead s off width = .ok v) :
    ∃ t, busTarget s.params off width = some t ∧ s.valueAt width t = some v ∧
      (s.windowOpen = false ∨ allowedInWindow t = true) := by
  rcases hostRead_cases s off width with ⟨-, he⟩ | ⟨t, ht, ⟨u, hu, hz, he⟩ | ⟨-, -, he⟩ | ⟨-, he⟩⟩ <;> rw [h] at he
  · cases he
  · cases he; exact ⟨t, ht, hu, hazard_eq_nil.mp hz⟩
  · cases he
  · cases he

/-- A read of a legal form outside the busy window, or allowed in it, is what the target holds. -/
theorem hostRead_of_value {s : State} {off : Addr} {width : Nat} {t : Target} {v : Word}
    (ht : busTarget s.params off width = some t) (hv : s.valueAt width t = some v)
    (hw : s.windowOpen = false ∨ allowedInWindow t = true) : hostRead s off width = .ok v := by
  unfold hostRead
  rw [ht]
  dsimp only
  rw [hv, hazard_eq_nil.mpr hw]

/-- A faulting read records at least one fault. -/
theorem hostRead_error_ne_nil {s : State} {off : Addr} {width : Nat} {fs : List Fault}
    (h : hostRead s off width = .error fs) : fs ≠ [] := by
  rcases hostRead_cases s off width with ⟨-, he⟩ | ⟨t, -, ⟨u, -, -, he⟩ | ⟨-, hz, he⟩ | ⟨-, he⟩⟩ <;> rw [h] at he
  · cases he; simp
  · cases he
  · cases he; exact hz
  · cases he; simp

/-- A register read through a legal access. -/
theorem hostRead_reg {s : State} {off : Addr} {width : Nat} {r : Reg}
    (ht : busTarget s.params off width = some (.reg r))
    (hw : s.windowOpen = false ∨ allowedInWindow (.reg r) = true) : hostRead s off width = .ok (s.readReg r) :=
  hostRead_of_value ht rfl hw

/-- A read at the offset of STATUS that is carried out returns STATUS. -/
theorem hostRead_status {s : State} {width : Nat} {v : Word} (h : hostRead s statusOff width = .ok v) :
    v = s.status := by
  obtain ⟨t, ht, -, hw⟩ := hostRead_eq_ok h
  have hb : busTarget s.params statusOff width = if regAccessOk 4 width then some (.reg .status) else none := rfl
  rw [hb] at ht
  split_ifs at ht with hr
  cases ht
  rw [hostRead_reg (by rw [hb, if_pos hr]) hw] at h
  cases h
  rfl

/-- What a host write that is carried out does. -/
inductive WriteCase (s : State) (width : Nat) (v : Word) : State → Prop where
  | reg (r : Reg) : WriteCase s width v (s.writeReg r v)
  | ibuf (k : Nat) (bound : k + width / 8 ≤ s.params.bufBytes) :
      WriteCase s width v (s.withIbuf (s.ibuf.writeRange k (leBytes (width / 8) v.toNat)))
  | obuf (k : Nat) (bound : k + width / 8 ≤ s.params.bufBytes) :
      WriteCase s width v (s.withObuf (s.obuf.writeRange k (leBytes (width / 8) v.toNat)))

theorem busTarget_ibuf {p : Params} {off : Addr} {width k : Nat} (h : busTarget p off width = some (.ibuf k)) :
    bufAccessOk p k width = true ∧ off.toNat = ibufBase + k := by
  unfold busTarget at h
  simp only at h
  split_ifs at h with h1 h2 h3 h4 h5 h6
  all_goals simp only [Option.some.injEq, reduceCtorEq, Target.ibuf.injEq] at h
  subst h
  exact ⟨h4, by omega⟩

theorem busTarget_obuf {p : Params} {off : Addr} {width k : Nat} (h : busTarget p off width = some (.obuf k)) :
    bufAccessOk p k width = true ∧ off.toNat = obufBase + k := by
  unfold busTarget at h
  simp only at h
  split_ifs at h with h1 h2 h3 h4 h5 h6
  all_goals simp only [Option.some.injEq, reduceCtorEq, Target.obuf.injEq] at h
  subst h
  exact ⟨h6, by omega⟩

theorem bufAccessOk_bound {p : Params} {k width : Nat} (h : bufAccessOk p k width = true) :
    k + width / 8 ≤ p.bufBytes := by
  simp only [bufAccessOk, Bool.and_eq_true, decide_eq_true_eq] at h
  exact h.2

/-- Everything a host write can answer. -/
theorem hostWrite_cases (s : State) (off : Addr) (width : Nat) (v : Word) :
    (busTarget s.params off width = none ∧ hostWrite s off width v = .error (s.hazard false ++ [.hostBusError])) ∨
    ∃ t, busTarget s.params off width = some t ∧
      ((s.windowOpen = false ∧ hostWrite s off width v = .ok (s.writeTarget width v t)) ∨
        (s.windowOpen = true ∧ hostWrite s off width v = .error [.hostHazard])) := by
  unfold hostWrite
  rw [hazard_eq]
  cases busTarget s.params off width <;> cases s.windowOpen <;> simp

/-- A write of a legal form outside the busy window is carried out. -/
theorem hostWrite_of_target {s : State} {off : Addr} {width : Nat} {t : Target} (v : Word)
    (ht : busTarget s.params off width = some t) (hw : s.windowOpen = false) :
    hostWrite s off width v = .ok (s.writeTarget width v t) := by
  rcases hostWrite_cases s off width v with ⟨hn, -⟩ | ⟨u, hu, ⟨-, he⟩ | ⟨ho, -⟩⟩
  · rw [ht] at hn; cases hn
  · rw [ht] at hu; cases hu; exact he
  · rw [hw] at ho; cases ho

/-- A faulting write records at least one fault. -/
theorem hostWrite_error_ne_nil {s : State} {off : Addr} {width : Nat} {v : Word} {fs : List Fault}
    (h : hostWrite s off width v = .error fs) : fs ≠ [] := by
  rcases hostWrite_cases s off width v with ⟨-, he⟩ | ⟨t, -, ⟨-, he⟩ | ⟨-, he⟩⟩ <;> rw [h] at he <;> cases he <;> simp

theorem hostWrite_eq_ok {s t : State} {off : Addr} {width : Nat} {v : Word} (h : hostWrite s off width v = .ok t) :
    s.windowOpen = false ∧ WriteCase s width v t := by
  rcases hostWrite_cases s off width v with ⟨-, he⟩ | ⟨tgt, ht, ⟨hw, he⟩ | ⟨-, he⟩⟩ <;> rw [h] at he
  · cases he
  · cases he
    refine ⟨hw, ?_⟩
    cases tgt with
    | reg r => exact .reg r
    | ibuf k => exact .ibuf k (bufAccessOk_bound (busTarget_ibuf ht).1)
    | obuf k => exact .obuf k (bufAccessOk_bound (busTarget_obuf ht).1)
  · cases he

/-! ## The engine -/

/-- The engine's step raises an error or completes with some output. -/
theorem perform_next_cases {s t : State} (h : perform s = .next t) : (∃ e, t = s.raise e) ∨ ∃ k, Completes s t k := by
  unfold perform at h
  split at h
  · exact exec_next_cases h
  · cases h; exact .inl ⟨_, rfl⟩

theorem perform_ne_refused (s : State) (q : Refusal) : perform s ≠ .refused q := by
  unfold perform
  split
  · exact exec_ne_refused _ _ _
  · intro h; cases h

theorem recordFault_next (s t : State) : recordFault s (.next t) = .next t := rfl

theorem recordFault_fault (s : State) (f : Fault) : recordFault s (.fault f) = .next (s.withFaults [f]) := rfl

theorem recordFault_eq_next {s t : State} {r : Result} (h : recordFault s r = .next t) :
    r = .next t ∨ ∃ f, r = .fault f ∧ t = s.withFaults [f] := by
  cases r with
  | next u => cases h; exact .inl rfl
  | fault f => cases h; exact .inr ⟨f, rfl, rfl⟩
  | refused q => cases h

/-! ## One step -/

/-- The engine's turn comes next, and `es` are the events after it: where none is pending, at an `engine` event, or at a
`wait` whose STATUS reads are spent, which stays pending. -/
def EngineNext (s : State) (es : List Input) : Prop :=
  (s.inputs = [] ∧ es = []) ∨ s.inputs = .engine :: es ∨
    (s.engState = .busy ∧ ∃ es', s.inputs = .poll 0 :: es' ∧ es = .poll 0 :: es')

/-- A host read comes next, and `es` are the events after it: a read, or the STATUS read of a `wait`. -/
def ReadNext (s : State) (off : Addr) (width : Nat) (es : List Input) : Prop :=
  s.inputs = .read off width :: es ∨ (off = statusOff ∧ width = 32 ∧ ∃ polls, s.inputs = .poll polls :: es)

/-- Everything a step can do. In each case but the first the fault record was empty. -/
inductive StepCase (s : State) : State → Prop where
  /-- The platform asserts reset. -/
  | reset (es : List Input) (head : s.inputs = .reset :: es) : StepCase s (s.withInputs es).platformReset
  /-- The engine recorded the fault of its command. -/
  | engineFault (es : List Input) (f : Fault) (clear : s.faultRecord = []) (busy : s.engState = .busy)
      (head : EngineNext s es) (raised : perform (s.withInputs es) = .fault f) :
      StepCase s ((s.withInputs es).withFaults [f])
  /-- The faults of a host read were recorded. -/
  | readFault (es : List Input) (off : Addr) (width : Nat) (fs : List Fault) (clear : s.faultRecord = [])
      (head : s.inputs = .read off width :: es) (raised : hostRead (s.withInputs es) off width = .error fs) :
      StepCase s ((s.withInputs es).withFaults fs)
  /-- The faults of a host write were recorded. -/
  | writeFault (es : List Input) (off : Addr) (width : Nat) (v : Word) (fs : List Fault) (clear : s.faultRecord = [])
      (head : s.inputs = .write off width v :: es) (raised : hostWrite (s.withInputs es) off width v = .error fs) :
      StepCase s ((s.withInputs es).withFaults fs)
  /-- The engine was idle. -/
  | rest (es : List Input) (clear : s.faultRecord = []) (idle : s.engState = .idle) (head : EngineNext s es) :
      StepCase s (s.withInputs es)
  /-- The engine performed the pending command. -/
  | engine (es : List Input) (t : State) (clear : s.faultRecord = []) (busy : s.engState = .busy)
      (head : EngineNext s es) (performed : perform (s.withInputs es) = .next t) : StepCase s t
  /-- A host read: of `rd` and `rb`, or of a `wait` statement, which may stay pending in `es'`. -/
  | read (es es' : List Input) (off : Addr) (width : Nat) (v : Word) (clear : s.faultRecord = [])
      (head : ReadNext s off width es) (value : hostRead (s.withInputs es) off width = .ok v) :
      StepCase s (((s.withInputs es).deliver off v).withInputs es')
  /-- A host write. -/
  | write (es : List Input) (off : Addr) (width : Nat) (v : Word) (t : State) (clear : s.faultRecord = [])
      (head : s.inputs = .write off width v :: es) (written : hostWrite (s.withInputs es) off width v = .ok t) :
      StepCase s t

theorem engineTurn_cases {s t : State} (es : List Input) (clear : s.faultRecord = []) (head : EngineNext s es)
    (h : engineTurn (s.withInputs es) = .next t) : StepCase s t := by
  unfold engineTurn at h
  split at h
  · rename_i hb
    rcases recordFault_eq_next h with h | ⟨f, hf, rfl⟩
    · exact .engine es t clear hb head h
    · exact .engineFault es f clear hb head hf
  · rename_i hi
    cases h
    exact .rest es clear hi head

/-- The STATUS read of a `wait` is carried out in every state. -/
theorem hostRead_status_ok (s : State) : hostRead s statusOff 32 = .ok s.status :=
  hostRead_reg (r := .status) rfl (.inr rfl)

theorem pollEvent_cases {s t : State} {polls : Nat} (es : List Input) (clear : s.faultRecord = [])
    (head : s.inputs = .poll polls :: es) (h : pollEvent (s.withInputs es) polls = t) : StepCase s t := by
  unfold pollEvent at h
  rw [hostRead_status_ok] at h
  dsimp only at h
  split_ifs at h
  all_goals
    cases h
    exact .read es _ _ _ _ clear (.inr ⟨rfl, rfl, polls, head⟩) (hostRead_status_ok _)

theorem withInputs_inputs_eq {s : State} {es : List Input} (h : s.inputs = es) : s.withInputs es = s := by
  subst h
  rfl

theorem step_next_cases {s t : State} (h : step s = .next t) : StepCase s t := by
  unfold step stepOnce at h
  cases hf : s.faultRecord with
  | cons f fs =>
    rw [hf] at h
    simp only [faultedTurn] at h
    split at h
    · rename_i es hes
      cases h
      exact .reset es hes
    · cases h
  | nil =>
    rw [hf] at h
    simp only [inputTurn] at h
    split at h
    · rename_i hes
      rw [← withInputs_inputs_eq hes] at h
      exact engineTurn_cases [] hf (.inl ⟨hes, rfl⟩) h
    · rename_i es hes
      exact engineTurn_cases es hf (.inr (.inl hes)) h
    · rename_i off width es hes
      cases h
      unfold readEvent
      split
      · rename_i v hr
        exact .read es es off width v hf (.inl hes) hr
      · rename_i fs hr
        exact .readFault es off width fs hf hes hr
    · rename_i off width v es hes
      cases h
      unfold writeEvent
      split
      · rename_i u hw
        exact .write es off width v u hf hes hw
      · rename_i fs hw
        exact .writeFault es off width v fs hf hes hw
    · rename_i polls es hes
      unfold pollTurn at h
      split at h
      · rename_i hb
        rw [← withInputs_inputs_eq hes] at h
        exact engineTurn_cases _ hf (.inr (.inr ⟨hb, es, hes, rfl⟩)) h
      · exact pollEvent_cases es hf hes (Host.Outcome.next.inj h)
    · rename_i es hes
      cases h
      exact .reset es hes

end Sys2Proof.Machine
end

