-- ==== Sys2Proof/Machine/HostScript.lean ====
section
/-! DEFINITION. The host command script (30_encoding R95, R96): each statement as the accesses it stands for. -/

namespace Sys2Proof.Machine

/-- The offset of a register (10_state R22); `reserved` stands for the first reserved offset. -/
def Reg.offset : Reg → Addr
  | .cmd => 0x00
  | .status => 0x04
  | .inLen => 0x08
  | .arg0 => 0x0C
  | .arg1 => 0x10
  | .outLen => 0x14
  | .res0 => 0x18
  | .res1 => 0x1C
  | .res2 => 0x20
  | .res3 => 0x24
  | .res4 => 0x28
  | .res5 => 0x2C
  | .cap => 0x30
  | .reserved => 0x34

/-- A statement of a host script (30_encoding R95). -/
inductive Stmt where
  /-- `wr REG, v` -/
  | wr (r : Reg) (v : Word)
  /-- `rd REG` -/
  | rd (r : Reg)
  /-- `wb IBUF[a], b0 b1 ... bk` -/
  | wb (a : Nat) (bs : List Byte)
  /-- `rb OBUF[a], n` -/
  | rb (a n : Nat)
  /-- `go M`, M a number -/
  | go (w : Word)
  /-- `wait`; the engine takes its step after `polls` reads that return BUSY = 1 (log 5) -/
  | wait (polls : Nat)
  deriving DecidableEq, Repr

/-- The aperture offset of byte `a` of the buffer window at `base`. DESIGN CHOICE (log 24): the spec gives no meaning to a
script that names a byte beyond the 128 KiB window; such a byte is given a reserved offset, so that its access is a bus
error and reaches no other byte. -/
def windowOff (base a : Nat) : Addr := BitVec.ofNat 19 (if a < obufBase - ibufBase then base + a else obufEnd)

/-- 8-bit writes of bytes to consecutive offsets of the buffer window at `base` (log 24 beyond it). -/
def byteWrites (base a : Nat) : List Byte → List Input
  | [] => []
  | b :: bs => .write (windowOff base a) 8 (b.setWidth 32) :: byteWrites base (a + 1) bs

/-- 8-bit reads of consecutive offsets of the buffer window at `base` (log 24 beyond it). -/
def byteReads (base a : Nat) : Nat → List Input
  | 0 => []
  | n + 1 => .read (windowOff base a) 8 :: byteReads base (a + 1) n

/-- The accesses of a statement (30_encoding R95). -/
def Stmt.inputs : Stmt → List Input
  | .wr r v => [.write r.offset 32 v]
  | .rd r => [.read r.offset 32]
  | .wb a bs => byteWrites ibufBase a bs
  | .rb a n => byteReads obufBase a n
  | .go w => [.write Reg.cmd.offset 32 w]
  | .wait polls => [.poll polls]

/-- The accesses of a script, in order. -/
def scriptInputs (ss : List Stmt) : List Input := ss.flatMap Stmt.inputs

/-! ## Pseudo-instructions (30_encoding R96)

`go M` with a mnemonic M is `.go (encode M)`. The argument `polls` of a `wait` is the model's (log 5). -/

/-- `load b0 ... b(n-1)` -/
def loadBytes (bs : List Byte) : List Stmt := [.wb 0 bs, .wr .inLen (BitVec.ofNat 32 bs.length)]

/-- `go M ; wait` -/
def goWait (i : Instr) (polls : Nat) : List Stmt := [.go (encode i), .wait polls]

/-- `crc16 init` -/
def pseudoCrc16 (init : Word) (polls : Nat) : List Stmt := .wr .arg0 init :: goWait .crc16 polls

/-- `make_packet c1, c2` -/
def pseudoMakePacket (c1 c2 : Word) (polls : Nat) : List Stmt :=
  .wr .arg0 c1 :: .wr .arg1 c2 :: goWait .makePacket polls

/-- `parse_packet` -/
def pseudoParsePacket (polls : Nat) : List Stmt := goWait .parsePacket polls

/-- `encode_can_header id, ts, fd, ext, brs` -/
def pseudoEncodeCanHeader (id ts fd ext brs : Word) (polls : Nat) : List Stmt :=
  .wr .arg0 id :: .wr .arg1 (ts ||| (fd <<< 1) ||| (ext <<< 2) ||| (brs <<< 3)) :: goWait .encodeCanHeader polls

/-- `decode_frame` -/
def pseudoDecodeFrame (polls : Nat) : List Stmt := goWait .decodeFrame polls

/-- `nop` -/
def pseudoNop (polls : Nat) : List Stmt := goWait .nop polls

/-- The state whose host is about to run a script. -/
def State.withScript (s : State) (ss : List Stmt) : State := s.withInputs (scriptInputs ss)

end Sys2Proof.Machine
end

