-- ==== Sys2Proof/Tests/Slice0.lean ====
section
/-! SUPPORT. Small tests: expected values come from spec/95_test_vectors.md (the vector is named at each test) or are written
out from the encoding rules; and a witness for the hypotheses of each statement that has some. -/

namespace Sys2Proof.Tests

-- One thread: the checker gives every thread a large stack, and many `decide +kernel` at once exceed its memory limit.
set_option Elab.async false

open Sys2Proof.Machine

/-! ## Helpers -/

/-- The state after reset with `bs` in IBUF, IN_LEN, ARG0 and ARG1 set. -/
def loaded (bs : List Byte) (n a0 a1 : Word) : State :=
  (((State.reset.withIbuf (Memory.writeRange [] 0 bs)).withInLen n).withArg0 a0).withArg1 a1

/-- That state with a command word started. -/
def started (w : Word) (bs : List Byte) (n a0 a1 : Word) : State := (loaded bs n a0 a1).start w

/-- What a test looks at in an answer, if it is a next state. -/
def seen {α : Type} (r : Result) (f : State → α) : Option α :=
  match r with
  | .next t => some (f t)
  | .fault _ => none
  | .refused _ => none

/-- The fault of an answer, if it is one. -/
def faultOf (r : Result) : Option Fault :=
  match r with
  | .next _ => none
  | .fault f => some f
  | .refused _ => none

/-- STATUS, OUT_LEN and the results. -/
def results (t : State) : List Word := [t.status, t.outLen, t.res0, t.res1, t.res2, t.res3, t.res4, t.res5]

/-- The value of a host read, if it has one. -/
def readValue (s : State) (off : Addr) (width : Nat) : Option Word := (hostRead s off width).toOption

/-- M2's packet. -/
def packetM2 : List Byte := [0xFF, 0x55, 0xAA, 0x01, 0x02, 0x03, 0x04, 0x00, 0x02, 0xDE, 0xAD, 0x36, 0xF8]

/-- F1's header. -/
def headerF1 : List Byte :=
  [0x14, 0xC8, 0x00, 0xE0, 0x59, 0xD1, 0x48, 0x04, 0x00, 0x00, 0x00, 0x23, 0x01, 0x00, 0x00]

/-- A state in the busy window of a command. -/
def inWindow : State := started 0x1 [] 0 0 0

/-! ## Well-formedness: a term each check refuses (00_scope R8, 20_memory R62) -/

theorem test_capacity_too_small : wellFormedCapacity 65545 = false := by decide
theorem test_capacity_too_large : wellFormedCapacity 131073 = false := by decide
theorem test_capacity_bounds : wellFormedCapacity 65546 = true ∧ wellFormedCapacity 131072 = true := by decide
theorem test_params_refused : Params.ofBufBytes? 65545 true 0 = none ∧ Params.ofBufBytes? 131073 true 0 = none := by
  decide
theorem test_params_top : (Params.ofBufBytes? 131072 true 0).map Params.bufBytes = some 131072 := by decide
theorem test_default_capacity : Params.default.bufBytes = 65546 := by decide

/-! ## Decoding: the words of 30_encoding R91, bit by bit -/

theorem test_decode_nop : decode 0b00000000000000000000000000000000#32 = .ok .nop := by decide
theorem test_decode_crc16 : decode 0b00000000000000000000000000000001#32 = .ok .crc16 := by decide
theorem test_decode_make_packet : decode 0b00000000000000000000000000000010#32 = .ok .makePacket := by decide
theorem test_decode_parse_packet : decode 0b00000000000000000000000000000011#32 = .ok .parsePacket := by decide
theorem test_decode_encode_can_header : decode 0b00000000000000000000000000000100#32 = .ok .encodeCanHeader := by
  decide
theorem test_decode_decode_frame : decode 0b00000000000000000000000000000101#32 = .ok .decodeFrame := by decide
theorem test_decode_op_7 : decode 0b00000000000000000000000000000111#32 = .error .reservedOp := by decide
theorem test_decode_bit_3 : decode 0b00000000000000000000000000001001#32 = .error .reservedBits := by decide
theorem test_encode_decode_frame : encode .decodeFrame = 0x00000005 := by decide
theorem test_decode_table_word : decodeTableWord 32 0x00000003 = some .parsePacket := by decide
theorem test_fetch_runs_first :
    seen (step (State.reset.withFetchWord 32 0x00000004)) results = some [0x2, 5, 0, 0, 0, 0, 0, 0] := by decide

/-! ## CRC16 (R121, vectors C2, C20) -/

theorem test_crc_table_construction :
    crcTable = (List.range 256).map fun i => crcShift8 (BitVec.ofNat 16 i <<< 8) := by decide +kernel
theorem test_crc_check_value :
    seen (exec .crc16 (loaded [0x31, 0x32, 0x33, 0x34, 0x35, 0x36, 0x37, 0x38, 0x39] 9 0xFFFF 0)) results =
      some [0x2, 0, 0x29B1, 0, 0, 0, 0, 0] := by decide +kernel
theorem test_crc_high_init_ignored :
    seen (exec .crc16 (loaded [0x01] 1 0xFFFF0000 0)) results = some [0x2, 0, 0x1021, 0, 0, 0, 0, 0] := by
  decide +kernel

/-! ## MAKE_PACKET (vectors M2, M8) -/

theorem test_make_packet :
    seen (exec .makePacket (loaded [0xDE, 0xAD] 2 0x0102 0x0304)) (fun t => (results t, t.obuf.readRange 0 13)) =
      some ([0x2, 13, 0x36F8, 0, 0, 0, 0, 0], some packetM2) := by decide +kernel
theorem test_make_packet_too_long :
    seen (exec .makePacket (loaded [] 65536 0 0)) results = some [0x16, 0, 0, 0, 0, 0, 0, 0] := by decide +kernel

/-! ## PARSE_PACKET (vectors K9, K11) -/

theorem test_parse_packet_trailing_byte :
    seen (exec .parsePacket (loaded (packetM2 ++ [0x00]) 14 0 0)) (fun t => (results t, t.obuf)) =
      some ([0x2, 2, 0x0102, 0x0304, 2, 0x36F8, 0, 0], [(0, 0xDE), (1, 0xAD)]) := by decide +kernel
theorem test_parse_packet_wrong_length :
    seen (exec .parsePacket (loaded (packetM2.set 8 0x00) 13 0 0)) results = some [0x56, 0, 0, 0, 0, 0, 0, 0] := by
  decide +kernel

/-! ## ENCODE_CAN_HEADER (vectors H5, H13) -/

theorem test_encode_can_header_max :
    seen (exec .encodeCanHeader (loaded [] 0 0x1FFFFFFF 0xF)) (fun t => (results t, t.obuf.readRange 0 5)) =
      some ([0x2, 5, 0xFFFFFFFD, 0x6, 0, 0, 0, 0], some [0xFD, 0xFF, 0xFF, 0xFF, 0x06]) := by decide +kernel
theorem test_encode_can_header_out_of_range :
    seen (exec .encodeCanHeader (loaded [] 0 0xFFFFFFFF 0x4)) results = some [0x76, 0, 0, 0, 0, 0, 0, 0] := by
  decide +kernel

/-! ## DECODE_FRAME (vectors F1, F14) -/

theorem test_decode_frame_can_base :
    seen (exec .decodeFrame (loaded (headerF1 ++ [0x11, 0x22]) 17 0 0)) (fun t => (results t, t.obuf.readRange 0 2)) =
      some ([0x2, 2, 0x5, 0x123, 0x123, 1000, 0x12345678, 0xC0000001], some [0x11, 0x22]) := by decide +kernel
theorem test_decode_frame_lin :
    seen (exec .decodeFrame (loaded [0, 0, 0, 0, 0, 0, 0, 0, 0, 0, 0x80, 0xFF, 0x03, 0x00, 0xA0] 15 0 0)) results =
      some [0x2, 0, 0x05040100, 0x3F, 0x3F, 0, 0, 0xE0000000] := by decide +kernel

/-! ## NOP and illegal commands (vectors N1, N4) -/

theorem test_nop_clears_results :
    seen (exec .nop ((loaded [] 0 0 0).finishOk 8 5 0x123 0x123 1000 1 2)) results = some [0x2, 0, 0, 0, 0, 0, 0, 0] := by
  decide
theorem test_illegal_word :
    seen (step (started 0x00000009 [] 0 0 0)) (fun t => (results t, t.cmd)) =
      some ([0x86, 0, 0, 0, 0, 0, 0, 0], 0x00000009) := by decide

/-! ## Host accesses (vectors A1 to A12) -/

theorem test_write_is_little_endian :
    (hostWrite State.reset 0x20000 32 0x44332211).toOption.map State.ibuf =
      some [(0, 0x11), (1, 0x22), (2, 0x33), (3, 0x44)] := by decide
theorem test_misaligned_buffer_read : hostRead State.reset 0x40001 16 = .error [.hostBusError] := by decide
theorem test_narrow_register_read : hostRead State.reset 0x00004 8 = .error [.hostBusError] := by decide
theorem test_reserved_register_reads_zero : hostRead State.reset 0x00034 32 = .ok 0 := by decide
theorem test_reserved_region : hostRead State.reset 0x00100 32 = .error [.hostBusError] := by decide
theorem test_beyond_the_buffer : hostRead State.reset (BitVec.ofNat 19 (0x20000 + 65546)) 8 = .error [.hostBusError] := by
  decide
theorem test_unwritten_output_read : hostRead State.reset 0x40000 8 = .error [.uninitialisedRead] := by decide
theorem test_unwritten_input : faultOf (exec .crc16 (loaded [] 1 0 0)) = some .uninitialisedRead := by decide
theorem test_read_in_window : hostRead inWindow 0x18 32 = .error [.hostHazard] := by decide
theorem test_narrow_status_read_in_window : hostRead inWindow 0x04 8 = .error [.hostHazard, .hostBusError] := by decide
theorem test_unwritten_read_in_window : hostRead inWindow 0x40000 8 = .error [.hostHazard, .uninitialisedRead] := by
  decide
theorem test_cap_in_window : hostRead inWindow 0x30 32 = .ok 65546 := by decide
theorem test_status_after_reset : hostRead State.reset 0x04 32 = .ok 0 := by decide
/-- OUT_LEN and RES0 to RES5, all different, at their offsets of rule R22. -/
theorem test_result_offsets :
    let s := (loaded [] 0 0 0).finishOk 8 5 0x123 0x124 1000 1 2
    [0x14, 0x18, 0x1C, 0x20, 0x24, 0x28, 0x2C].map (fun a => readValue s (BitVec.ofNat 19 a) 32) =
      [some 8, some 5, some 0x123, some 0x124, some 1000, some 1, some 2] := by decide
theorem test_status_write_ignored : (hostWrite State.reset 0x04 32 0xFFFFFFFF).toOption = some State.reset := by decide
theorem test_bus_address_below_base : offsetOf? { Params.default with rmBase := 0x1000 } 0xFFF = none := by decide
theorem test_bus_address_of_status :
    offsetOf? { Params.default with rmBase := 0x1000 } 0x1004 = some 0x00004 := by decide

/-! ## The host script (30_encoding R95, R96; program P1's bus encoding) -/

theorem test_script_load_and_crc :
    scriptInputs (loadBytes [0x31, 0x32] ++ pseudoCrc16 0 1) =
      [.write 0x20000 8 0x31, .write 0x20001 8 0x32, .write 0x08 32 2, .write 0x0C 32 0, .write 0x00 32 0x00000001,
        .poll 1] := by decide
theorem test_script_beyond_the_window :
    scriptInputs [.wb 0x1FFFF [1, 2], .rb 0x1FFFF 2] =
      [.write 0x3FFFF 8 1, .write 0x60000 8 2, .read 0x5FFFF 8, .read 0x60000 8] := by decide
theorem test_script_encode_flags :
    scriptInputs (pseudoEncodeCanHeader 0x7FF 0 1 0 1 0) =
      [.write 0x0C 32 0x7FF, .write 0x10 32 0xA, .write 0x00 32 0x00000004, .poll 0] := by decide

/-! ## Witnesses

For each statement with hypotheses, a state and operands that meet all of them together, at the ends of the ranges its
clauses name. -/

/-- The state an answer goes on with (the state after reset where it stops). -/
def after (r : Result) : State :=
  match r with
  | .next t => t
  | .fault _ => State.reset
  | .refused _ => State.reset

/-- An answer that goes on, from a check Lean can evaluate. -/
theorem goesOn {r : Result} (h : seen r (fun _ => true) = some true) : r = .next (after r) := by
  cases r <;> simp_all [seen, after]

/-- The state after a command has completed, its STATUS not yet read. -/
def completed : State := after (step (started 0x1 [0x31, 0x32] 2 0 0))

/-- A block of the largest capacity. -/
def largest : State := State.atReset { Params.default with bufExtra := 65526 } [] []

/-- `n` zero bytes in IBUF and IN_LEN = n. -/
def zeros (n : Nat) : State := loaded (List.replicate n 0) (BitVec.ofNat 32 n) 0 0

theorem zeros_holds (n : Nat) : (zeros n).ibuf.Holds 0 (List.replicate n 0) := Memory.writeRange_holds _ _ _

theorem loaded_holds (bs : List Byte) (n a0 a1 : Word) : (loaded bs n a0 a1).ibuf.Holds 0 bs :=
  Memory.writeRange_holds _ _ _

/-- A packet with an empty payload, as in rule R146. -/
def packetEmpty : List Byte := [0xFF, 0x55, 0xAA, 0, 0, 0, 0, 0, 0, 0x39, 0xA6]

/-- The packet of rule R160's example, whose shortened form parses too. -/
def packetTwice : List Byte := [0xFF, 0x55, 0xAA, 0x01, 0x02, 0x03, 0x04, 0x00, 0x02, 0x7F, 0x99, 0x6E, 0x60]

theorem witness_DecodeAndEncodeAgree : Instr.decodeFrame.wellFormed = true ∧ decode 0x00000005 = .ok .decodeFrame := by
  decide +kernel

theorem witness_StepRunsTheDecodedCommand :
    decode inWindow.pend = .ok .crc16 ∧ inWindow.engState = .busy ∧ inWindow.faultRecord = [] ∧
      inWindow.inputs = [] ∧ (inWindow.withInputs [.engine]).inputs = [.engine] ∧
      (inWindow.withInputs [.poll 0]).inputs = [.poll 0] := by decide +kernel

theorem witness_IllegalWordRaisesIllegalCommand :
    ∀ n ∈ [0x00000008, 0x80000000, 0x00000006, 0x00000007],
      let s := started (BitVec.ofNat 32 n) [] 0 0 0
      (s.pend.extractLsb' 3 29 ≠ 0 ∨ s.pend.extractLsb' 0 3 = 6 ∨ s.pend.extractLsb' 0 3 = 7) ∧ s.pend = s.cmd := by
  decide +kernel

theorem witness_StepPerformsAnIllegalWord :
    let s := started 0x00000009 [] 0 0 0
    decode s.pend = .error .reservedBits ∧ s.engState = .busy ∧ s.faultRecord = [] ∧ s.inputs = [] ∧
      (s.withInputs [.engine]).inputs = [.engine] ∧ (s.withInputs [.poll 0]).inputs = [.poll 0] := by decide

/-- Each access with a value and with a fault. -/
theorem witness_AnEventRunsItsAccess :
    State.reset.faultRecord = [] ∧
      (State.reset.withInputs [.write 0x20000 8 1]).inputs = .write 0x20000 8 1 :: [] ∧
      (hostWrite State.reset 0x20000 8 1).toOption.isSome = true ∧
      (hostWrite State.reset 0x20001 16 1).toOption.isSome = false ∧
      (completed.withInputs [.read 0x04 32]).inputs = .read 0x04 32 :: [] ∧
      readValue completed 0x04 32 = some 0x00000002 ∧ readValue completed 0x18 32 = none := by decide +kernel

theorem witness_CmdWriteStartsACommand :
    State.reset.window = false ∧ busyBit State.reset.status = false ∧ inWindow.window = true ∧
      busyBit inWindow.status = true ∧ completed.window = true ∧ busyBit completed.status = false := by decide +kernel

theorem witness_StartedCommandCompletes :
    inWindow.engState = .busy ∧ inWindow.faultRecord = [] ∧ Input.reset ∉ inWindow.inputs ∧
      Input.reset ∉ (inWindow.withInputs [.poll 2, .read 0x18 32]).inputs := by decide

theorem witness_IdleEngineKeepsItsState :
    State.reset.engState = .idle ∧ State.reset.faultRecord = [] ∧ State.reset.inputs = [] ∧
      (State.reset.withInputs [.engine]).inputs = [.engine] := by decide +kernel

theorem witness_CommandsKeepTheirInputs : ∃ t, exec .crc16 (loaded [0x31] 1 0 0) = .next t := ⟨_, goesOn (by decide +kernel)⟩

theorem witness_OutputBeyondOutLenIsStale :
    ∃ t, exec .encodeCanHeader (State.reset.withObuf [(4, 1), (5, 2)]) = .next t ∧ t.outLen = 5 :=
  ⟨_, goesOn (by decide), by decide⟩

theorem witness_EveryCompletionIsPrecise :
    (∃ t, exec .nop State.reset = .next t ∧ t.status = 0x00000002) ∧
      ∃ t, exec .encodeCanHeader (loaded [] 0 0x800 0) = .next t ∧ t.status = 0x00000076 :=
  ⟨⟨_, goesOn (by decide), by decide⟩, _, goesOn (by decide), by decide⟩

/-- Every command answers a next state somewhere, with its own effect. -/
theorem witness_every_command_completes :
    (∀ i ∈ [Instr.nop, .crc16, .encodeCanHeader], ∃ t, exec i State.reset = .next t) ∧
      (∃ t, exec .makePacket (loaded [0xDE, 0xAD] 2 0x0102 0x0304) = .next t ∧ t.status = 0x00000002) ∧
      (∃ t, exec .parsePacket (loaded packetM2 13 0 0) = .next t ∧ t.status = 0x00000002) ∧
      ∃ t, exec .decodeFrame (loaded headerF1 15 0 0) = .next t ∧ t.status = 0x00000002 := by
  refine ⟨?_, ⟨_, goesOn (by decide +kernel), by decide +kernel⟩, ⟨_, goesOn (by decide +kernel), by decide +kernel⟩,
    ⟨_, goesOn (by decide +kernel), by decide +kernel⟩⟩
  intro i hi
  simp only [List.mem_cons, List.not_mem_nil, or_false] at hi
  rcases hi with rfl | rfl | rfl <;> exact ⟨_, goesOn (by decide +kernel)⟩

theorem witness_CommandCompletesExactlyWhenItsInputIsWritten :
    (loaded [0x31] 1 0 0).ibuf.Written (inputExtent .crc16 (loaded [0x31] 1 0 0)) ∧
      ¬ (loaded [0x31] 2 0 0).ibuf.Written (inputExtent .crc16 (loaded [0x31] 2 0 0)) := by
  unfold Memory.Written; decide +kernel

theorem witness_CompletionDependsOnlyOnItsInputs :
    let s := started 0x1 [0x31, 0x32] 1 7 0
    let s' := (started 0x1 [0x31] 1 7 0).withObuf [(3, 9)]
    s'.params = s.params ∧ s'.pend = s.pend ∧ s'.inLen = s.inLen ∧ s'.arg0 = s.arg0 ∧ s'.arg1 = s.arg1 ∧
      (∀ i, decode s.pend = .ok i → s.ibuf.AgreeBelow s'.ibuf (inputExtent i s)) ∧
      perform s = .next (after (perform s)) := by
  refine ⟨rfl, rfl, rfl, rfl, rfl, ?_, goesOn (by decide +kernel)⟩
  intro i hi
  obtain rfl : Instr.crc16 = i := Except.ok.inj hi
  unfold Memory.AgreeBelow; decide +kernel

theorem witness_Crc16Result_large :
    (loaded [] 65547 0 0).params.bufBytes < (loaded [] 65547 0 0).inLen.toNat ∧
      (loaded [] 0xFFFFFFFF 0 0).params.bufBytes < (loaded [] 0xFFFFFFFF 0 0).inLen.toNat := by
  decide +kernel

theorem witness_Crc16Result_of_bytes : ∀ n ≤ 65546,
    (zeros n).inLen.toNat ≤ (zeros n).params.bufBytes ∧ (List.replicate n (0 : Byte)).length = (zeros n).inLen.toNat ∧
      (zeros n).ibuf.Holds 0 (List.replicate n 0) := by
  intro n hn
  have hl : (zeros n).inLen.toNat = n := by
    simp only [zeros, loaded, State.withInLen, State.withArg0, State.withArg1, BitVec.toNat_ofNat]; omega
  rw [hl]
  exact ⟨hn, List.length_replicate, zeros_holds n⟩

theorem witness_EmptyCrcReturnsInit : State.reset.inLen = 0 := rfl

theorem witness_Crc16ChainsThroughTheHost :
    let s := loaded [0x31, 0x32] 2 0xFFFF 0
    let t := after (exec .crc16 s)
    let u := loaded [0x33] 1 t.res0 0
    s.ibuf.Holds 0 [0x31, 0x32] ∧ s.inLen.toNat = [0x31, 0x32].length ∧ [0x31, 0x32].length ≤ s.params.bufBytes ∧
      exec .crc16 s = .next t ∧ u.ibuf.Holds 0 [0x33] ∧ u.inLen.toNat = [0x33].length ∧
      [0x33].length ≤ u.params.bufBytes ∧ u.arg0 = t.res0 :=
  ⟨loaded_holds _ _ _ _, rfl, by decide +kernel, goesOn (by decide +kernel), loaded_holds _ _ _ _, rfl,
    Nat.le_add_left _ _, rfl⟩

theorem witness_PacketLayout : ∀ n ≤ 65535, ∃ k, makePacket 0xFFFF 0x8001 (List.replicate n 0) = .ok k := by
  intro n hn
  exact ⟨_, makePacket_eq (by simpa [maxPayload] using hn)⟩

theorem witness_MakePacketResult_large :
    65535 < (loaded [] 65536 0 0).inLen.toNat ∧
      (loaded [] 65536 0 0).inLen.toNat ≤ (loaded [] 65536 0 0).params.bufBytes ∧
      (loaded [] 65547 0 0).params.bufBytes < (loaded [] 65547 0 0).inLen.toNat := by
  decide +kernel

theorem witness_MakePacketResult_of_payload : ∀ n ≤ 65535,
    (zeros n).inLen.toNat ≤ (zeros n).params.bufBytes ∧ (zeros n).inLen.toNat ≤ 65535 ∧
      (List.replicate n (0 : Byte)).length = (zeros n).inLen.toNat ∧ (zeros n).ibuf.Holds 0 (List.replicate n 0) := by
  intro n hn
  obtain ⟨h1, h2, h3⟩ := witness_Crc16Result_of_bytes n (by omega)
  exact ⟨h1, by rw [← h2, List.length_replicate]; exact hn, h2, h3⟩

theorem witness_ParsePacketResult_length :
    (loaded [] 65547 0 0).params.bufBytes < (loaded [] 65547 0 0).inLen.toNat ∧ (loaded [] 10 0 0).inLen.toNat < 11 ∧
      State.reset.inLen.toNat < 11 := by
  decide +kernel

/-- A wrong preamble, a length one too large (rule R158, 3), and lengths that fit: N = 11 and N = BUF_BYTES, with the CRC
right and wrong. -/
theorem witness_ParsePacketResult_of_header :
    (∀ n ∈ [11, 65546], let s := loaded packetEmpty (BitVec.ofNat 32 n) 0 0
      11 ≤ s.inLen.toNat ∧ s.inLen.toNat ≤ s.params.bufBytes) ∧
    (packetEmpty.take 9).length = 9 ∧ (packetEmpty.set 0 0xFE).take 3 ≠ [0xFF, 0x55, 0xAA] ∧
    (packetEmpty.take 9).take 3 = [0xFF, 0x55, 0xAA] ∧
    0 = 256 * ((packetEmpty.take 9).getD 7 0).toNat + ((packetEmpty.take 9).getD 8 0).toNat ∧
    1 = 256 * ((packetEmpty.set 8 1).getD 7 0).toNat + ((packetEmpty.set 8 1).getD 8 0).toNat ∧
    packetEmpty.length = 11 ∧
    (crc16 (packetEmpty.take 9) 0).toNat = 256 * (packetEmpty.getD 9 0).toNat + (packetEmpty.getD 10 0).toNat ∧
    (crc16 ((packetEmpty.set 10 0).take 9) 0).toNat ≠
      256 * ((packetEmpty.set 10 0).getD 9 0).toNat + ((packetEmpty.set 10 0).getD 10 0).toNat ∧
    (∀ bs : List Byte, (loaded bs 11 0 0).ibuf.Holds 0 bs) ∧
    (loaded packetEmpty 65546 0 0).ibuf.Holds 0 (packetEmpty.take 9) := by
  refine ⟨by decide, rfl, by decide, by decide, by decide, by decide, rfl, by decide +kernel, by decide +kernel,
    fun bs => loaded_holds _ _ _ _, ?_⟩
  unfold Memory.Holds; decide +kernel

theorem witness_ParsePacketPerformsTheFunction :
    (loaded packetM2 13 0 0).inLen.toNat = packetM2.length ∧ packetM2.length ≤ (loaded packetM2 13 0 0).params.bufBytes ∧
      (∀ bs : List Byte, (loaded bs 13 0 0).ibuf.Holds 0 bs) ∧ (parsePacket packetM2).toOption.isSome = true ∧
      (parsePacket (packetM2.set 0 0)).toOption.isSome = false :=
  ⟨rfl, by decide, fun _ => loaded_holds _ _ _ _, by decide +kernel, by decide +kernel⟩

theorem witness_BytesBeyondThePacketAreIgnored :
    let s := loaded (packetEmpty ++ [1]) 12 0 0
    let s' := loaded packetEmpty 65546 0 0
    s'.params = s.params ∧ s.ibuf.AgreeBelow s'.ibuf (0 + 11) ∧ s.ibuf.read 7 = some 0 ∧ s.ibuf.read 8 = some 0 ∧
      0 = 256 * (0 : Byte).toNat + (0 : Byte).toNat ∧ 0 + 11 ≤ s.inLen.toNat ∧ s.inLen.toNat ≤ s.params.bufBytes ∧
      0 + 11 ≤ s'.inLen.toNat ∧ s'.inLen.toNat ≤ s'.params.bufBytes ∧
      exec .parsePacket s = .next (after (exec .parsePacket s)) := by
  refine ⟨rfl, ?_, by decide, by decide, by decide, by decide, by decide, by decide, by decide,
    goesOn (by decide +kernel)⟩
  unfold Memory.AgreeBelow; decide +kernel

theorem witness_PacketRoundTrip :
    let s := loaded [0xDE, 0xAD] 2 0xABCD0102 0x0304
    let t := after (exec .makePacket s)
    let u := loaded packetM2 13 0 0
    exec .makePacket s = .next t ∧ t.status = 0x00000002 ∧ [0xDE, 0xAD].length = s.inLen.toNat ∧
      s.ibuf.Holds 0 [0xDE, 0xAD] ∧ packetM2.length = t.outLen.toNat ∧ t.obuf.Holds 0 packetM2 ∧
      u.ibuf.Holds 0 packetM2 ∧ u.inLen = t.outLen := by
  refine ⟨goesOn (by decide +kernel), by decide +kernel, rfl, loaded_holds _ _ _ _, by decide +kernel, ?_,
    loaded_holds _ _ _ _, by decide +kernel⟩
  unfold Memory.Holds; decide +kernel

/-- A flip in every field: bit 7 of byte 3 and of the last byte, bit 0 of the preamble, length 2 made 3, 0 and (where the
shortened packet parses) 0. -/
theorem witness_TamperDetection :
    makePacket 0x0102 0x0304 [0xDE, 0xAD] = .ok packetM2 ∧ makePacket 0x0102 0x0304 [0x7F, 0x99] = .ok packetTwice ∧
      (loaded (packetM2.set 8 3) 13 0 0).inLen.toNat = packetM2.length ∧
      (∀ k ∈ [0, 3, 7, 8, 12], k < packetM2.length) ∧
      packetM2.length < 256 * ((packetM2.set 8 3).getD 7 0).toNat + ((packetM2.set 8 3).getD 8 0).toNat + 11 ∧
      packetM2.getD 8 0 ^^^ BitVec.twoPow 8 0 = 3 ∧ packetM2.getD 8 0 ^^^ BitVec.twoPow 8 1 = 0 ∧
      256 * ((packetM2.set 8 0).getD 7 0).toNat + ((packetM2.set 8 0).getD 8 0).toNat + 11 ≤ packetM2.length := by
  decide +kernel

theorem witness_EncodeCanHeaderResult :
    ((loaded [] 0 0x800 0).arg1.getLsbD 2).toNat = 0 ∧ 0x7FF < (loaded [] 0 0x800 0).arg0.toNat ∧
      ((loaded [] 0 0x20000000 0x4).arg1.getLsbD 2).toNat = 1 ∧ 0x1FFFFFFF < (loaded [] 0 0x20000000 0x4).arg0.toNat ∧
      ((loaded [] 0 0x7FF 0xFFFFFFFB).arg1.getLsbD 2).toNat = 0 ∧ (loaded [] 0 0x7FF 0xFFFFFFFB).arg0.toNat ≤ 0x7FF ∧
      ((loaded [] 0 0x1FFFFFFF 0xF).arg1.getLsbD 2).toNat = 1 ∧
      (loaded [] 0 0x1FFFFFFF 0xF).arg0.toNat ≤ 0x1FFFFFFF := by decide +kernel

theorem witness_EncodeCanHeaderIsRepeatable :
    let s := loaded [] 0 0x123 0
    let s' := (loaded [0x31] 1 0x123 0).withObuf [(0, 1)]
    s'.arg0 = s.arg0 ∧ s'.arg1 = s.arg1 ∧ exec .encodeCanHeader s = .next (after (exec .encodeCanHeader s)) ∧
      (after (exec .encodeCanHeader s)).status = 0x00000002 :=
  ⟨rfl, rfl, goesOn (by decide), by decide +kernel⟩

theorem witness_DecodeFrameResult_errors :
    (loaded [] 65547 0 0).params.bufBytes < (loaded [] 65547 0 0).inLen.toNat ∧ (loaded [] 14 0 0).inLen.toNat < 15 ∧
      (∀ n ∈ [15, 65546], let s := loaded [1] (BitVec.ofNat 32 n) 0 0
        15 ≤ s.inLen.toNat ∧ s.inLen.toNat ≤ s.params.bufBytes ∧ s.ibuf.read 0 = some 1) ∧ (1 : Byte).toNat % 2 = 1 := by
  decide +kernel

/-- N = 15 (no data), 270 (255 data bytes), 271 and BUF_BYTES (8 data bytes). -/
theorem witness_DecodeFrameResult_of_header : ∀ n ∈ [15, 270, 271, 65546],
    let dl := if n - 15 > 255 then 8 else n - 15
    let s := loaded (List.replicate (15 + dl) 0) (BitVec.ofNat 32 n) 0 0
    15 ≤ s.inLen.toNat ∧ s.inLen.toNat ≤ s.params.bufBytes ∧ (List.replicate 15 (0 : Byte)).length = 15 ∧
      s.ibuf.Holds 0 (List.replicate 15 0) ∧ ((List.replicate 15 (0 : Byte)).getD 0 0).toNat % 2 = 0 ∧
      (List.replicate dl (0 : Byte)).length = (if s.inLen.toNat - 15 > 255 then 8 else s.inLen.toNat - 15) ∧
      s.ibuf.Holds 15 (List.replicate dl 0) := by
  have hold : ∀ (n : Word) (dl : Nat), (loaded (List.replicate (15 + dl) 0) n 0 0).ibuf.Holds 0 (List.replicate 15 0) ∧
      (loaded (List.replicate (15 + dl) 0) n 0 0).ibuf.Holds 15 (List.replicate dl 0) := by
    intro n dl
    have h := loaded_holds (List.replicate (15 + dl) 0) n 0 0
    constructor <;> intro k hk <;> simp only [List.length_replicate] at hk
    · rw [h k (by rw [List.length_replicate]; omega), List.getElem?_replicate, List.getElem?_replicate, if_pos hk,
        if_pos (by omega)]
    · have := h (15 + k) (by rw [List.length_replicate]; omega)
      rw [Nat.zero_add] at this
      rw [this, List.getElem?_replicate, List.getElem?_replicate, if_pos hk, if_pos (by omega)]
  have len : ∀ (bs : List Byte) (n : Nat), n < 2 ^ 32 → (loaded bs (BitVec.ofNat 32 n) 0 0).inLen.toNat = n := by
    intro bs n hn
    simp only [loaded, State.withInLen, State.withArg0, State.withArg1, BitVec.toNat_ofNat]; omega
  intro n hn
  have bounds : 15 ≤ n ∧ n ≤ 65546 := by
    simp only [List.mem_cons, List.not_mem_nil, or_false] at hn; omega
  intro dl s
  have hs : s.inLen.toNat = n := len _ n (by omega)
  refine ⟨by omega, by rw [hs]; exact bounds.2, List.length_replicate, (hold _ dl).1, rfl, ?_, (hold _ dl).2⟩
  rw [List.length_replicate, hs]

theorem witness_UsHighAliasesProtocolAndId :
    ∃ t, exec .decodeFrame (loaded headerF1 15 0 0) = .next t ∧ t.status = 0x00000002 :=
  ⟨_, goesOn (by decide +kernel), by decide +kernel⟩

/-- One frame of each type. -/
theorem witness_IdFitsItsFrameType :
    ∀ f ∈ [((0 : Byte), (0 : Byte), 0), (0, 0x80, 1), (0, 0x20, 2), (0, 0xA0, 3), (0x80, 0xA0, 4)],
      seen (exec .decodeFrame (loaded [0, 0, 0, 0, 0, 0, 0, 0, 0, 0, f.1, 0xFF, 0xFF, 0xFF, f.2.1] 15 0 0))
        (fun t => (t.status, t.res0.toNat / 2 ^ 16 % 8)) = some (0x00000002, f.2.2) := by decide +kernel

theorem witness_ReservedFrameBitIsIgnored :
    let s := loaded headerF1 15 0 0
    let s' := loaded (headerF1.set 0 0x16) 15 7 7
    s'.params = s.params ∧ s'.inLen = s.inLen ∧ s.ibuf.read 0 = some 0x14 ∧ s'.ibuf.read 0 = some (0x14 ^^^ 0x02) ∧
      (∀ a, a ≠ 0 → s'.ibuf.read a = s.ibuf.read a) ∧
      exec .decodeFrame s = .next (after (exec .decodeFrame s)) := by
  refine ⟨rfl, rfl, rfl, rfl, fun a ha => ?_, goesOn (by decide +kernel)⟩
  show Memory.read (Memory.writeRange [] 0 (headerF1.set 0 0x16)) a = Memory.read (Memory.writeRange [] 0 headerF1) a
  rw [Memory.read_writeRange, Memory.read_writeRange, List.length_set, Nat.sub_zero,
    List.getElem?_set_ne (Ne.symm ha)]

theorem witness_RtrIsOnlyReported :
    let s := loaded headerF1 15 0 0
    let s' := loaded (headerF1.set 14 0x40) 15 7 7
    s'.params = s.params ∧ s'.inLen = s.inLen ∧ s.ibuf.read 14 = some 0x00 ∧
      s'.ibuf.read 14 = some (0x00 ^^^ 0x40) ∧ (∀ a, a ≠ 14 → s'.ibuf.read a = s.ibuf.read a) ∧
      exec .decodeFrame s = .next (after (exec .decodeFrame s)) ∧ (after (exec .decodeFrame s)).status = 0x00000002 := by
  refine ⟨rfl, rfl, rfl, rfl, fun a ha => ?_, goesOn (by decide +kernel), by decide +kernel⟩
  show Memory.read (Memory.writeRange [] 0 (headerF1.set 14 0x40)) a = Memory.read (Memory.writeRange [] 0 headerF1) a
  rw [Memory.read_writeRange, Memory.read_writeRange, List.length_set, Nat.sub_zero,
    List.getElem?_set_ne (Ne.symm ha)]

theorem witness_OversizedDataIsClamped :
    ∀ n ∈ [0, 255, 256], 15 ≤ (List.replicate (15 + n) (0 : Byte)).length ∧
      ((List.replicate (15 + n) (0 : Byte)).getD 0 0).toNat % 2 = 0 := by decide +kernel

theorem witness_DecodedPrefixGivesTheSameFrame :
    15 ≤ (List.replicate 15 (0 : Byte)).length ∧ 15 ≤ (List.replicate 271 (1 : Byte)).length := by decide +kernel

/-- No error case and each of the four, outside the busy window: a narrow and an unaligned register access, a misaligned
buffer access, the last byte and the first beyond, and the ends of the reserved regions. Inside it one of each. -/
theorem witness_BusErrorsAreTheFourCases :
    (∀ c ∈ [((0x00 : Addr), 32), (0xFC, 32), (0x20000, 8), (BitVec.ofNat 19 (0x20000 + 65545), 8),
        (BitVec.ofNat 19 (0x40000 + 65544), 16)], (busTarget State.reset.params c.1 c.2).isSome = true) ∧
      (∀ c ∈ [((0x00 : Addr), 8), (0xFE, 32), (0x20001, 16), (0x40002, 32), (BitVec.ofNat 19 (0x20000 + 65546), 8),
        (BitVec.ofNat 19 (0x40000 + 65544), 32), (0x100, 32), (0x1FFFF, 8), (0x60000, 32), (0x7FFFF, 8)],
        busTarget State.reset.params c.1 c.2 = none) ∧
      hostRead inWindow 0x60000 32 = .error [.hostHazard, .hostBusError] ∧
      hostRead inWindow 0x00 32 = .error [.hostHazard] := by decide

theorem witness_OtherWidthsAreBusErrors :
    24 ≠ 8 ∧ 24 ≠ 16 ∧ 24 ≠ 32 ∧ hostRead State.reset 0x20000 24 = .error [.hostBusError] ∧
      hostRead State.reset 0x20000 0 = .error [.hostBusError] ∧
      hostRead inWindow 0x04 64 = .error [.hostHazard, .hostBusError] := by decide

theorem witness_BusyWindowAllowsOnlyStatusAndCapReads :
    inWindow.window = true ∧ busyBit inWindow.status = true ∧ completed.window = true ∧
      busyBit completed.status = false ∧ State.reset.window = false ∧ busyBit State.reset.status = false ∧
      ¬ (8 = 32 ∧ ((0x04 : Addr) = 0x04 ∨ (0x04 : Addr) = 0x30)) ∧
      ¬ (32 = 32 ∧ ((0x00 : Addr) = 0x04 ∨ (0x00 : Addr) = 0x30)) := by decide +kernel

/-- Each clause, in and outside the busy window: an illegal form, a byte never written, one written, an allowed read. -/
theorem witness_EveryFaultOfAnAccessIsRecorded :
    inWindow.windowOpen = true ∧ State.reset.windowOpen = false ∧
      busTarget inWindow.params 0x04 8 = none ∧ busTarget inWindow.params 0x20000 8 = some (.ibuf 0) ∧
      inWindow.valueAt 8 (.ibuf 0) = none ∧ (State.reset.withIbuf [(0, 7)]).valueAt 8 (.ibuf 0) = some 7 ∧
      busTarget inWindow.params 0x18 32 = some (.reg .res0) ∧ inWindow.valueAt 32 (.reg .res0) = some 0 := by decide

theorem witness_WindowClosesOnlyAtAnIdleStatusRead :
    (∀ es ∈ [[Input.read 0x04 32], [.poll 0], [.reset]],
      seen (step (completed.withInputs es)) State.window = some false) ∧ completed.window = true := by decide +kernel

theorem witness_HostReadHasNoSideEffect :
    (completed.withInputs [.read 0x04 32]).inputs = .read 0x04 32 :: [] ∧ completed.faultRecord = [] ∧
      seen (step (completed.withInputs [.read 0x04 32])) State.faultRecord = some [] := by decide +kernel

theorem witness_ReservedOffsetsReadZero :
    State.reset.windowOpen = false ∧ ∀ a ∈ [0x34, 0xFC], let off : Addr := BitVec.ofNat 19 a
      0x34 ≤ off.toNat ∧ off.toNat ≤ 0xFC ∧ off.toNat % 4 = 0 := by decide +kernel

theorem witness_ReadOnlyRegistersIgnoreWrites :
    State.reset.windowOpen = false ∧ busyBit inWindow.status = true ∧ (0x04 : Addr).toNat = 0x04 ∧
      ∀ a ∈ [0x14, 0x30], let off : Addr := BitVec.ofNat 19 a
      0x14 ≤ off.toNat ∧ off.toNat ≤ 0x30 ∧ off.toNat % 4 = 0 := by decide +kernel

theorem witness_EachOffsetReadsItsRegister : State.reset.windowOpen = false ∧ completed.windowOpen = true := by
  decide +kernel

theorem witness_OperandRegistersReadBack : State.reset.windowOpen = false := rfl

theorem witness_CapAlwaysReadsTheCapacity :
    inWindow.params.bufBytes = 65546 ∧ largest.params.bufBytes = 131072 ∧
      seen (step inWindow) (fun _ => true) = some true := by decide +kernel

theorem witness_WideAccessesAreLittleEndian :
    State.reset.windowOpen = false ∧ largest.windowOpen = false ∧
      (∀ c ∈ [(0, 1), (65545, 1), (65544, 2), (65540, 4)], c.1 % c.2 = 0 ∧ c.1 + c.2 ≤ State.reset.params.bufBytes) ∧
      131068 % 4 = 0 ∧ 131068 + 4 ≤ largest.params.bufBytes ∧
      ∀ bs : List Byte, ((State.reset.withObuf (Memory.writeRange [] 4 bs)).obuf.Holds 4 bs ∧
        (State.reset.withIbuf (Memory.writeRange [] 4 bs)).ibuf.Holds 4 bs) :=
  ⟨rfl, rfl, by decide, rfl, by decide, fun _ => ⟨Memory.writeRange_holds _ _ _, Memory.writeRange_holds _ _ _⟩⟩

theorem witness_UnwrittenByteReadFaults :
    (State.reset.withIbuf [(4, 1), (6, 1), (7, 1)]).ibuf.read (4 + 1) = none ∧ State.reset.obuf.read (4 + 3) = none ∧
      (State.reset.withIbuf [(4, 1), (6, 1), (7, 1)]).windowOpen = false ∧ inWindow.windowOpen = true ∧
      inWindow.ibuf.read (4 + 1) = none ∧
      4 % 4 = 0 ∧ 4 + 4 ≤ State.reset.params.bufBytes := by decide +kernel

theorem witness_WaitPollsUntilNotBusy :
    (inWindow.withInputs [.poll 1]).faultRecord = [] ∧ (inWindow.withInputs [.poll 1]).inputs = .poll (0 + 1) :: [] ∧
      inWindow.engState = .busy ∧ busyBit inWindow.status = true ∧
      (completed.withInputs [.poll 0]).faultRecord = [] ∧ (completed.withInputs [.poll 0]).inputs = .poll 0 :: [] ∧
      completed.engState = .idle ∧ busyBit completed.status = false := by decide +kernel

theorem witness_FaultRecordStaysUntilReset :
    (State.reset.withFaults [.hostHazard, .hostBusError]).faultRecord = .hostHazard :: [.hostBusError] ∧
      (∀ es, (State.reset.withFaults [.hostHazard, .hostBusError]).inputs ≠ .reset :: es) ∧
      ((State.reset.withFaults [.hostHazard, .hostBusError]).withInputs [.reset]).inputs = .reset :: [] ∧
      ((State.reset.withFaults [.hostHazard, .hostBusError]).withInputs [.reset]).faultRecord = .hostHazard :: [.hostBusError] :=
  ⟨rfl, fun _ => List.cons_ne_nil _ _ ∘ Eq.symm, rfl, rfl⟩

/-- Each of the three faults: a read in the busy window, an access of a reserved region, a byte never written. -/
theorem witness_FaultingAccessChangesNoState :
    seen (step (inWindow.withInputs [.read 0x18 32])) State.faultRecord = some [.hostHazard] ∧
      seen (step (State.reset.withInputs [.write 0x60000 32 0])) State.faultRecord = some [.hostBusError] ∧
      seen (step (started 0x1 [] 1 0 0)) State.faultRecord = some [.uninitialisedRead] ∧
      (started 0x1 [] 1 0 0).inputs = [] ∧
      seen (step ((started 0x1 [] 1 0 0).withInputs [.poll 0])) State.faultRecord = some [.uninitialisedRead] ∧
      inWindow.faultRecord = [] := by decide +kernel

theorem witness_ResetTakesEveryResetValue : (inWindow.withInputs [.reset]).inputs = .reset :: [] := rfl

theorem witness_ResultsPersistUntilTheNextCommand :
    seen (step (State.reset.withInputs [.write 0x20000 8 1])) State.ibuf = some [(0, 1)] ∧
      State.reset.engState = .idle ∧ (∀ es, (State.reset.withInputs [.write 0x20000 8 1]).inputs ≠ .reset :: es) ∧
      ∀ off width v es, (State.reset.withInputs [.write 0x20000 8 1]).inputs = .write off width v :: es →
        off.toNat < 0x40000 := by
  refine ⟨by decide +kernel, rfl, fun es h => ?_, fun off width v es h => ?_⟩
  · simp [State.withInputs] at h
  · simp only [State.withInputs, List.cons.injEq, Input.write.injEq] at h
    rw [← h.1.1]; decide +kernel

theorem witness_EveryStepKeepsTheInvariant : State.reset.Inv ∧ step State.reset = .next State.reset := by
  refine ⟨⟨by decide, by decide, ?_, ?_, by decide, by decide, by decide, by decide, by decide, by decide, ?_⟩, rfl⟩
  · intro a h; simp [State.reset, State.atReset] at h
  · intro a h; simp [State.reset, State.atReset] at h
  · intro k h; simp [State.reset, State.atReset] at h

end Sys2Proof.Tests
end

section
/-! The registers and the invariant (10_state): what the host reads and writes at each register offset, what reset
leaves, and that every step keeps `State.Inv`. -/

namespace Sys2Proof.Machine

/-! ## Legal register accesses -/

/-- Every aligned 32-bit access of the register window reaches a register (20_memory R63). -/
theorem busTarget_of_register (p : Params) {off : Addr} (window : off.toNat < 0x100) (aligned : off.toNat % 4 = 0) :
    busTarget p off 32 = some (.reg (regAt (off.toNat / 4))) := by
  simp [busTarget, regAccessOk, regWindowEnd, window, aligned]

theorem busTarget_offset (p : Params) (r : Reg) : busTarget p r.offset 32 = some (.reg r) := by
  cases r <;> rfl

theorem regAt_reserved {word : Nat} (h : 13 ≤ word) : regAt word = .reserved := by
  obtain ⟨k, rfl⟩ := Nat.exists_eq_add_of_le' h
  rfl

/-- Only the words of CMD, IN_LEN, ARG0 and ARG1 take a write (10_state R22). -/
theorem writeReg_regAt_ignored {word : Nat} (s : State) (v : Word) (h : word = 1 ∨ 5 ≤ word) :
    s.writeReg (regAt word) v = s := by
  obtain rfl | h5 := h
  · rfl
  · obtain h13 | h12 := Nat.lt_or_ge 12 word
    · rw [regAt_reserved h13]; rfl
    · interval_cases word <;> rfl

theorem hostRead_offset {s : State} (r : Reg) (closed : s.windowOpen = false) :
    hostRead s r.offset 32 = .ok (s.readReg r) :=
  hostRead_reg (busTarget_offset s.params r) (.inl closed)

theorem hostWrite_offset {s : State} (r : Reg) (v : Word) (closed : s.windowOpen = false) :
    hostWrite s r.offset 32 v = .ok (s.writeReg r v) :=
  hostWrite_of_target v (busTarget_offset s.params r) closed

/-- CAP may be read in the busy window too (70_reset_and_hazards R290). -/
theorem hostRead_cap (s : State) : hostRead s Reg.cap.offset 32 = .ok s.cap :=
  hostRead_reg (busTarget_offset s.params .cap) (.inr rfl)

theorem windowOpen_of_busyBit {s : State} (busy : busyBit s.status = true) : s.windowOpen = true := by
  simp [State.windowOpen, busy]

/-- In the busy window a write of a legal form is a hazard and nothing else. -/
theorem hostWrite_of_windowOpen {s : State} {off : Addr} {width : Nat} {t : Target} (v : Word)
    (ht : busTarget s.params off width = some t) (opened : s.windowOpen = true) :
    hostWrite s off width v = .error [.hostHazard] := by
  unfold hostWrite
  rw [ht, hazard_eq, if_pos ⟨opened, rfl⟩]

/-! ## The capacity -/

theorem bufBytes_bounds (p : Params) : 65546 ≤ p.bufBytes ∧ p.bufBytes ≤ 131072 := by
  have := p.bufExtra.isLt
  unfold Params.bufBytes
  omega

theorem cap_toNat (s : State) : s.cap.toNat = s.params.bufBytes := by
  have := (bufBytes_bounds s.params).2
  rw [State.cap, BitVec.toNat_ofNat, Nat.mod_eq_of_lt (by omega)]

/-! ## No step changes the parameters -/

theorem writeReg_params (s : State) (r : Reg) (v : Word) : (s.writeReg r v).params = s.params := by
  cases r <;> rfl

theorem WriteCase.params_eq {s t : State} {width : Nat} {v : Word} (h : WriteCase s width v t) :
    t.params = s.params := by
  cases h with
  | reg r => exact writeReg_params s r v
  | ibuf | obuf => rfl

theorem perform_params {s t : State} (h : perform s = .next t) : t.params = s.params := by
  obtain ⟨e, rfl⟩ | ⟨k, -, r0, r1, r2, r3, r4, r5, rfl⟩ := perform_next_cases h <;> rfl

theorem step_params {s t : State} (h : step s = .next t) : t.params = s.params := by
  cases step_next_cases h with
  | engine es _ _ _ _ performed => exact perform_params (s := s.withInputs es) performed
  | write es off width v _ _ _ written => exact (hostWrite_eq_ok written).2.params_eq
  | reset | engineFault | readFault | writeFault | rest | read => rfl

/-! ## Reset -/

/-- Reset goes ahead with or without a recorded fault (60_exceptions R263). -/
theorem step_of_reset {s : State} {es : List Input} (head : s.inputs = .reset :: es) :
    step s = .next (s.withInputs es).platformReset := by
  unfold step stepOnce faultedTurn inputTurn
  cases s.faultRecord <;> rw [head]

/-! ## Memories within a capacity -/

theorem Memory.isSome_read_writeRange (m : Memory) (a c : Nat) (vs : List Byte) :
    ((m.writeRange a vs).read c).isSome = true ↔ (a ≤ c ∧ c < a + vs.length) ∨ (m.read c).isSome = true := by
  rw [Memory.read_writeRange]
  split_ifs with h
  · simp [h, show c - a < vs.length by omega]
  · simp [h]

/-- What the invariant asks of each buffer: the canonical form, and no byte at or above the capacity `n`. -/
def Memory.Fits (m : Memory) (n : Nat) : Prop := m.wf = true ∧ ∀ a, (m.read a).isSome = true → a < n

theorem State.Inv.ibufFits {s : State} (h : s.Inv) : s.ibuf.Fits s.params.bufBytes := ⟨h.ibufWf, h.ibufBound⟩

theorem State.Inv.obufFits {s : State} (h : s.Inv) : s.obuf.Fits s.params.bufBytes := ⟨h.obufWf, h.obufBound⟩

theorem Memory.Fits.writeRange {m : Memory} {n a : Nat} {vs : List Byte} (h : m.Fits n) (bound : a + vs.length ≤ n) :
    (m.writeRange a vs).Fits n := by
  obtain ⟨wf, below⟩ := h
  refine ⟨Memory.wf_writeRange wf a vs, fun c hc => ?_⟩
  obtain ⟨-, hlt⟩ | hm := (Memory.isSome_read_writeRange m a c vs).mp hc
  · omega
  · exact below c hm

theorem Memory.Written.writeRange {m : Memory} {n : Nat} (h : m.Written n) (a : Nat) (vs : List Byte) :
    (m.writeRange a vs).Written n :=
  fun k hk => (Memory.isSome_read_writeRange m a k vs).mpr (.inr (h k hk))

theorem Memory.written_writeRange_zero (m : Memory) (vs : List Byte) : (m.writeRange 0 vs).Written vs.length :=
  fun k hk => (Memory.isSome_read_writeRange m 0 k vs).mpr (.inl (by omega))

/-! ## What keeps the invariant -/

theorem State.Inv.atReset (p : Params) (es : List Input) (rs : List Word) : (State.atReset p es rs).Inv where
  ibufWf := Memory.wf_nil
  obufWf := Memory.wf_nil
  ibufBound := by simp [State.atReset]
  obufBound := by simp [State.atReset]
  status := legalStatus_zero
  busy := by simp [State.atReset]
  window := by simp [State.atReset]
  pend := rfl
  noResult := fun _ => ⟨rfl, rfl, rfl, rfl, rfl, rfl, rfl⟩
  outLen := by simp [State.atReset]
  output := by simp [State.atReset, Memory.Written]

/-- The invariant says nothing of the events to come. -/
theorem State.Inv.withInputs {s : State} (h : s.Inv) (es : List Input) : (s.withInputs es).Inv := { h with }

/-- The invariant says nothing of the fault record. -/
theorem State.Inv.withFaults {s : State} (h : s.Inv) (fs : List Fault) : (s.withFaults fs).Inv := { h with }

/-- The invariant says nothing of the operand registers. -/
theorem State.Inv.withInLen {s : State} (h : s.Inv) (v : Word) : (s.withInLen v).Inv := { h with }

theorem State.Inv.withArg0 {s : State} (h : s.Inv) (v : Word) : (s.withArg0 v).Inv := { h with }

theorem State.Inv.withArg1 {s : State} (h : s.Inv) (v : Word) : (s.withArg1 v).Inv := { h with }

theorem State.Inv.withIbuf {s : State} {m : Memory} (h : s.Inv) (fits : m.Fits s.params.bufBytes) :
    (s.withIbuf m).Inv :=
  { h with ibufWf := fits.1, ibufBound := fits.2 }

theorem State.Inv.withObuf {s : State} {m : Memory} (h : s.Inv) (fits : m.Fits s.params.bufBytes)
    (written : m.Written s.outLen.toNat) : (s.withObuf m).Inv :=
  { h with obufWf := fits.1, obufBound := fits.2, output := written }

/-- A command starts: STATUS, ENG_STATE and the busy window go busy together (44_control R231). -/
theorem State.Inv.start {s : State} (h : s.Inv) (w : Word) : (s.start w).Inv :=
  { h with
    status := legalStatus_statusStarted
    busy := by simp
    window := fun _ => rfl
    pend := rfl
    noResult := by simp }

/-- An error completes a command: the engine rests and every result is 0 (60_exceptions R253). -/
theorem State.Inv.raise {s : State} (h : s.Inv) (e : ErrKind) : (s.raise e).Inv :=
  { h with
    status := legalStatus_statusErr e
    busy := by simp
    window := by simp
    noResult := fun _ => ⟨rfl, rfl, rfl, rfl, rfl, rfl, rfl⟩
    outLen := by simp
    output := by simp [Memory.Written] }

/-- A command completes: OUT_LEN counts exactly the bytes it wrote to OBUF (44_control R236, 10_state R28). -/
theorem State.Inv.completes {s t : State} {k : List Byte} (h : s.Inv) (done : Completes s t k) : t.Inv := by
  obtain ⟨hk, r0, r1, r2, r3, r4, r5, rfl⟩ := done
  have count : (BitVec.ofNat 32 k.length).toNat = k.length := by
    rw [BitVec.toNat_ofNat, Nat.mod_eq_of_lt (by omega)]
  have fits : (s.obuf.writeRange 0 k).Fits s.params.bufBytes :=
    h.obufFits.writeRange (by have := (bufBytes_bounds s.params).1; omega)
  exact
    { h with
      obufWf := fits.1
      obufBound := fits.2
      status := legalStatus_statusOk
      busy := by simp
      window := by simp
      noResult := by simp
      outLen := by simpa [count] using hk
      output := by simpa [count] using Memory.written_writeRange_zero s.obuf k }

/-- A read that closes the busy window returned BUSY = 0, so no command is in flight (70_reset_and_hazards R290). -/
theorem State.Inv.deliver {s : State} {off : Addr} {width : Nat} {v : Word} (h : s.Inv)
    (value : hostRead s off width = .ok v) : (s.deliver off v).Inv :=
  { h with
    window := fun busy => by
      have opened : s.window = true := h.window busy
      have busyRead : off = statusOff → busyBit v = true := by
        rintro rfl
        rw [hostRead_status value]
        exact h.busy.mp busy
      simpa [opened, imp_iff_not_or] using busyRead }

theorem State.Inv.writeReg {s : State} (h : s.Inv) (r : Reg) (v : Word) : (s.writeReg r v).Inv := by
  cases r with
  | cmd => exact h.start v
  | inLen => exact h.withInLen v
  | arg0 => exact h.withArg0 v
  | arg1 => exact h.withArg1 v
  | status | outLen | res0 | res1 | res2 | res3 | res4 | res5 | cap | reserved => exact h

theorem State.Inv.hostWrite {s t : State} {width : Nat} {v : Word} (h : s.Inv) (done : WriteCase s width v t) :
    t.Inv := by
  cases done with
  | reg r => exact h.writeReg r v
  | ibuf k bound => exact h.withIbuf (h.ibufFits.writeRange (by rwa [leBytes_length]))
  | obuf k bound => exact h.withObuf (h.obufFits.writeRange (by rwa [leBytes_length])) (h.output.writeRange _ _)

theorem State.Inv.perform {s t : State} (h : s.Inv) (performed : Machine.perform s = .next t) : t.Inv := by
  obtain ⟨e, rfl⟩ | ⟨k, done⟩ := perform_next_cases performed
  · exact h.raise e
  · exact h.completes done

theorem State.Inv.step {s t : State} (h : s.Inv) (stepped : Machine.step s = .next t) : t.Inv := by
  cases step_next_cases stepped with
  | reset es => exact .atReset s.params es s.reads
  | engineFault es f => exact (h.withInputs es).withFaults [f]
  | readFault es _ _ fs => exact (h.withInputs es).withFaults fs
  | writeFault es _ _ _ fs => exact (h.withInputs es).withFaults fs
  | rest es => exact h.withInputs es
  | engine es _ _ _ _ performed => exact (h.withInputs es).perform performed
  | read es es' _ _ _ _ _ value => exact ((h.withInputs es).deliver value).withInputs es'
  | write es _ _ _ _ _ _ written => exact (h.withInputs es).hostWrite (hostWrite_eq_ok written).2

/-! ## The obligations -/

/-- Settles O56: by the cases of a step, each of which keeps the invariant by its own lemma. -/
theorem everyStepKeepsTheInvariant : Obligations.EveryStepKeepsTheInvariant := fun _ _ => State.Inv.step

/-- Settles O57: the invariant holds after reset for all parameters. -/
theorem resetMeetsTheInvariant : Obligations.ResetMeetsTheInvariant := .atReset _ _ _

/-- Settles O43: every word of the register window from 0x34 on is reserved. -/
theorem reservedOffsetsReadZero : Obligations.ReservedOffsetsReadZero := by
  intro s off v closed low high aligned
  have target := busTarget_of_register s.params (by omega) aligned
  rw [regAt_reserved (by omega)] at target
  exact ⟨hostRead_reg target (.inl closed), hostWrite_of_target v target closed⟩

/-- Settles O44: the words of these registers ignore a write, and BUSY = 1 opens the busy window. -/
theorem readOnlyRegistersIgnoreWrites : Obligations.ReadOnlyRegistersIgnoreWrites := by
  intro s off v readOnly
  have target := busTarget_of_register s.params (off := off) (by omega) (by omega)
  refine ⟨fun closed => ?_, fun busy => hostWrite_of_windowOpen v target (windowOpen_of_busyBit busy)⟩
  rw [hostWrite_of_target v target closed, State.writeTarget, writeReg_regAt_ignored s v (by omega)]

/-- Settles O47: the busy window allows the read of CAP, and every step keeps the parameters. -/
theorem capAlwaysReadsTheCapacity : Obligations.CapAlwaysReadsTheCapacity := by
  refine ⟨fun s => ⟨s.cap, hostRead_cap s, cap_toNat s, ?_⟩, fun s t h => by rw [step_params h]⟩
  rw [cap_toNat]
  exact bufBytes_bounds s.params

/-- Settles O45: the read at each register's offset, one register at a time. -/
theorem eachOffsetReadsItsRegister : Obligations.EachOffsetReadsItsRegister := fun _ closed =>
  ⟨hostRead_offset .cmd closed, hostRead_offset .status closed, hostRead_offset .inLen closed,
    hostRead_offset .arg0 closed, hostRead_offset .arg1 closed, hostRead_offset .outLen closed,
    hostRead_offset .res0 closed, hostRead_offset .res1 closed, hostRead_offset .res2 closed,
    hostRead_offset .res3 closed, hostRead_offset .res4 closed, hostRead_offset .res5 closed,
    hostRead_offset .cap closed⟩

/-- Settles O46: the write and the read at each operand register's offset; the write leaves the busy window closed. -/
theorem operandRegistersReadBack : Obligations.OperandRegistersReadBack := fun s v closed =>
  ⟨⟨hostWrite_offset .inLen v closed, hostRead_offset (s := s.withInLen v) .inLen closed⟩,
    ⟨hostWrite_offset .arg0 v closed, hostRead_offset (s := s.withArg0 v) .arg0 closed⟩,
    ⟨hostWrite_offset .arg1 v closed, hostRead_offset (s := s.withArg1 v) .arg1 closed⟩⟩

/-- Settles O53: a reset event leads to `platformReset`,
whatever the fault record holds; its fields are the reset values. -/
theorem resetTakesEveryResetValue : Obligations.ResetTakesEveryResetValue := by
  intro s es head
  refine ⟨_, step_of_reset head, ?_⟩
  simp [State.cap]

end Sys2Proof.Machine
end

section
/-! Host accesses of the buffers and the order of events (20_memory): what each region of the address map answers, which
accesses are bus errors, the byte order of a wide access, and the step of a read or write event. -/

namespace Sys2Proof.Machine

/-! ## The step of an access -/

theorem step_of_read {s : State} {off : Addr} {width : Nat} {es : List Input} (clear : s.faultRecord = [])
    (head : s.inputs = .read off width :: es) : step s = .next (readEvent (s.withInputs es) off width) := by
  unfold step stepOnce inputTurn
  rw [clear, head]

theorem step_of_write {s : State} {off : Addr} {width : Nat} {v : Word} {es : List Input} (clear : s.faultRecord = [])
    (head : s.inputs = .write off width v :: es) : step s = .next (writeEvent (s.withInputs es) off width v) := by
  unfold step stepOnce inputTurn
  rw [clear, head]

theorem readEvent_of_ok {s : State} {off : Addr} {width : Nat} {v : Word} (h : hostRead s off width = .ok v) :
    readEvent s off width = s.deliver off v := by
  rw [readEvent, h]

theorem readEvent_of_error {s : State} {off : Addr} {width : Nat} {fs : List Fault}
    (h : hostRead s off width = .error fs) : readEvent s off width = s.withFaults fs := by
  rw [readEvent, h]

theorem writeEvent_of_ok {s t : State} {off : Addr} {width : Nat} {v : Word} (h : hostWrite s off width v = .ok t) :
    writeEvent s off width v = t := by
  rw [writeEvent, h]

theorem writeEvent_of_error {s : State} {off : Addr} {width : Nat} {v : Word} {fs : List Fault}
    (h : hostWrite s off width v = .error fs) : writeEvent s off width v = s.withFaults fs := by
  rw [writeEvent, h]

/-- Only a STATUS read that returns BUSY = 0 closes the busy window (70_reset_and_hazards R290). -/
theorem deliver_window_eq_ite (s : State) (off : Addr) (v : Word) :
    (s.deliver off v).window = if off = 0x04 ∧ busyBit v = false then false else s.window := by
  rw [State.deliver_window, statusOff]
  split_ifs with closes
  · simp [closes]
  · obtain other | busy := not_and_or.mp closes
    · rw [beq_false_of_ne other]
      simp
    · simp [busy]

theorem deliver_eq (s : State) (off : Addr) (v : Word) :
    s.deliver off v =
      { s with reads := v :: s.reads, window := if off = 0x04 ∧ busyBit v = false then false else s.window } := by
  rw [← deliver_window_eq_ite]
  rfl

/-! ## The address map (20_memory R62) -/

/-- An offset lies in the register window, in one of the two buffer windows, or in a reserved region. -/
theorem addr_region (off : Addr) :
    off.toNat < 0x100 ∨ (∃ k < 0x20000, off.toNat = 0x20000 + k) ∨ (∃ k < 0x20000, off.toNat = 0x40000 + k) ∨
      (0x100 ≤ off.toNat ∧ off.toNat < 0x20000) ∨ 0x60000 ≤ off.toNat := by
  by_cases ibuf : 0x20000 ≤ off.toNat ∧ off.toNat < 0x40000
  · exact .inr (.inl ⟨off.toNat - 0x20000, by omega, by omega⟩)
  by_cases obuf : 0x40000 ≤ off.toNat ∧ off.toNat < 0x60000
  · exact .inr (.inr (.inl ⟨off.toNat - 0x40000, by omega, by omega⟩))
  omega

theorem busTarget_regWindow (p : Params) {off : Addr} (width : Nat) (h : off.toNat < 0x100) :
    busTarget p off width = if regAccessOk off.toNat width then some (.reg (regAt (off.toNat / 4))) else none :=
  if_pos h

theorem busTarget_ibufWindow (p : Params) {off : Addr} {k : Nat} (width : Nat) (hk : k < 0x20000)
    (h : off.toNat = 0x20000 + k) :
    busTarget p off width = if bufAccessOk p k width then some (.ibuf k) else none := by
  have inside : ibufBase ≤ off.toNat ∧ off.toNat < obufBase := by unfold ibufBase obufBase; omega
  have notReg : ¬ off.toNat < regWindowEnd := by unfold regWindowEnd; omega
  have offset : off.toNat - ibufBase = k := by unfold ibufBase; omega
  simp only [busTarget, if_neg notReg, if_pos inside, offset]

theorem busTarget_obufWindow (p : Params) {off : Addr} {k : Nat} (width : Nat) (hk : k < 0x20000)
    (h : off.toNat = 0x40000 + k) :
    busTarget p off width = if bufAccessOk p k width then some (.obuf k) else none := by
  have inside : obufBase ≤ off.toNat ∧ off.toNat < obufEnd := by unfold obufBase obufEnd; omega
  have notIbuf : ¬ (ibufBase ≤ off.toNat ∧ off.toNat < obufBase) := by unfold obufBase; omega
  have notReg : ¬ off.toNat < regWindowEnd := by unfold regWindowEnd; omega
  have offset : off.toNat - obufBase = k := by unfold obufBase; omega
  simp only [busTarget, if_neg notReg, if_neg notIbuf, if_pos inside, offset]

theorem busTarget_reservedRegion (p : Params) {off : Addr} (width : Nat)
    (h : (0x100 ≤ off.toNat ∧ off.toNat < 0x20000) ∨ 0x60000 ≤ off.toNat) : busTarget p off width = none := by
  have notReg : ¬ off.toNat < regWindowEnd := by unfold regWindowEnd; omega
  have notIbuf : ¬ (ibufBase ≤ off.toNat ∧ off.toNat < obufBase) := by unfold ibufBase obufBase; omega
  have notObuf : ¬ (obufBase ≤ off.toNat ∧ off.toNat < obufEnd) := by unfold obufBase obufEnd; omega
  simp only [busTarget, if_neg notReg, if_neg notIbuf, if_neg notObuf]

/-! ## Bus errors (20_memory R63, R65) -/

theorem regAccessOk_iff (a width : Nat) : regAccessOk a width = true ↔ width = 32 ∧ a % 4 = 0 := by
  simp [regAccessOk]

theorem bufAccessOk_width {p : Params} {k width : Nat} (h : bufAccessOk p k width = true) :
    width = 8 ∨ width = 16 ∨ width = 32 := by
  simp only [bufAccessOk, Bool.and_eq_true, Bool.or_eq_true, beq_iff_eq] at h
  omega

theorem bufAccessOk_iff (p : Params) (k : Nat) {width : Nat} (hw : width = 8 ∨ width = 16 ∨ width = 32) :
    bufAccessOk p k width = true ↔ k % (width / 8) = 0 ∧ k + width / 8 ≤ p.bufBytes := by
  obtain rfl | rfl | rfl := hw <;> simp [bufAccessOk, Nat.mod_one]

/-- Every legal access is 8, 16 or 32 bits wide. -/
theorem width_of_busTarget {p : Params} {off : Addr} {width : Nat} {t : Target} (h : busTarget p off width = some t) :
    width = 8 ∨ width = 16 ∨ width = 32 := by
  obtain hr | ⟨k, hk, ha⟩ | ⟨k, hk, ha⟩ | hr := addr_region off
  · rw [busTarget_regWindow p width hr, Option.ite_none_right_eq_some, regAccessOk_iff] at h
    exact .inr (.inr h.1.1)
  · rw [busTarget_ibufWindow p width hk ha, Option.ite_none_right_eq_some] at h
    exact bufAccessOk_width h.1
  · rw [busTarget_obufWindow p width hk ha, Option.ite_none_right_eq_some] at h
    exact bufAccessOk_width h.1
  · rw [busTarget_reservedRegion p width hr] at h
    cases h

/-- The four cases of 20_memory R65 for an access of `width` bits at offset `a`. -/
def IllegalForm (p : Params) (a width : Nat) : Prop :=
  (a < 0x100 ∧ (width ≠ 32 ∨ a % 4 ≠ 0)) ∨
    ((0x20000 ≤ a ∧ a < 0x60000) ∧ (a - 0x20000) % 0x20000 % (width / 8) ≠ 0) ∨
    ((0x20000 ≤ a ∧ a < 0x60000) ∧ p.bufBytes < (a - 0x20000) % 0x20000 + width / 8) ∨
    ((0x100 ≤ a ∧ a < 0x20000) ∨ 0x60000 ≤ a)

theorem illegalForm_regWindow (p : Params) {a : Nat} (width : Nat) (h : a < 0x100) :
    IllegalForm p a width ↔ ¬ regAccessOk a width = true := by
  rw [IllegalForm, regAccessOk_iff]
  omega

/-- At byte `k` of either buffer window, IBUF (`base = 0x20000`) or OBUF (`base = 0x40000`). -/
theorem illegalForm_bufWindow (p : Params) {a base k width : Nat} (hb : base = 0x20000 ∨ base = 0x40000)
    (hk : k < 0x20000) (ha : a = base + k) (hw : width = 8 ∨ width = 16 ∨ width = 32) :
    IllegalForm p a width ↔ ¬ bufAccessOk p k width = true := by
  have offset : (a - 0x20000) % 0x20000 = k := by omega
  rw [IllegalForm, bufAccessOk_iff p k hw, offset]
  omega

theorem busTarget_eq_none_iff (p : Params) (off : Addr) {width : Nat} (hw : width = 8 ∨ width = 16 ∨ width = 32) :
    busTarget p off width = none ↔ IllegalForm p off.toNat width := by
  obtain hr | ⟨k, hk, ha⟩ | ⟨k, hk, ha⟩ | hr := addr_region off
  · rw [busTarget_regWindow p width hr, illegalForm_regWindow p width hr]
    simp
  · rw [busTarget_ibufWindow p width hk ha, illegalForm_bufWindow p (.inl rfl) hk ha hw]
    simp
  · rw [busTarget_obufWindow p width hk ha, illegalForm_bufWindow p (.inr rfl) hk ha hw]
    simp
  · exact iff_of_true (busTarget_reservedRegion p width hr) (.inr (.inr (.inr hr)))

theorem hostBusError_not_mem_hazard (s : State) (allowed : Bool) : .hostBusError ∉ s.hazard allowed :=
  fun h => Fault.noConfusion (eq_of_mem_hazard h)

/-- A read records a bus error exactly where it reaches nothing, in the busy window too. -/
theorem hostRead_busError_iff (s : State) (off : Addr) (width : Nat) :
    (∃ fs, hostRead s off width = .error fs ∧ .hostBusError ∈ fs) ↔ busTarget s.params off width = none := by
  obtain ⟨ht, hr⟩ | ⟨t, ht, ⟨v, -, -, hr⟩ | ⟨-, -, hr⟩ | ⟨-, hr⟩⟩ := hostRead_cases s off width <;> rw [hr, ht]
  · simp
  · simp
  · simp [hostBusError_not_mem_hazard]
  · simp [hostBusError_not_mem_hazard]

/-- A write records a bus error exactly where it reaches nothing, in the busy window too. -/
theorem hostWrite_busError_iff (s : State) (off : Addr) (width : Nat) (v : Word) :
    (∃ fs, hostWrite s off width v = .error fs ∧ .hostBusError ∈ fs) ↔ busTarget s.params off width = none := by
  obtain ⟨ht, hr⟩ | ⟨t, ht, ⟨-, hr⟩ | ⟨-, hr⟩⟩ := hostWrite_cases s off width v <;> rw [hr, ht] <;> simp

/-! ## Byte order (20_memory R64) -/

theorem leBytes_getElem? {n i : Nat} (v : Nat) (h : i < n) :
    (leBytes n v)[i]? = some (BitVec.ofNat 8 (v >>> (8 * i))) := by
  induction n generalizing v i with
  | zero => omega
  | succ n ih =>
    cases i with
    | zero => rfl
    | succ i =>
      rw [leBytes, List.getElem?_cons_succ, ih _ (by omega), show 8 * (i + 1) = 8 + 8 * i by omega, Nat.shiftRight_add,
        Nat.shiftRight_eq_div_pow v 8]

theorem leInt_eq_sum (bs : List Byte) :
    leInt bs = ∑ i ∈ Finset.range bs.length, (bs.getD i 0).toNat * 2 ^ (8 * i) := by
  induction bs with
  | nil => rfl
  | cons b bs ih =>
    rw [leInt, ih, List.length_cons, Finset.sum_range_succ', Finset.mul_sum, Nat.add_comm]
    congr 1
    · refine Finset.sum_congr rfl fun i _ => ?_
      rw [List.getD_cons_succ]
      ring
    · simp

theorem Memory.read_writeRange_leBytes (m : Memory) (k : Nat) {n i : Nat} (v : Word) (h : i < n) :
    (m.writeRange k (leBytes n v.toNat)).read (k + i) = some (v.extractLsb' (8 * i) 8) := by
  rw [Memory.writeRange_holds m k _ i (by rwa [leBytes_length]), leBytes_getElem? _ h]
  rfl

theorem Memory.read_writeRange_leBytes_outside (m : Memory) {k n a : Nat} (v : Word) (h : a < k ∨ k + n ≤ a) :
    (m.writeRange k (leBytes n v.toNat)).read a = m.read a :=
  Memory.read_writeRange_outside m k a _ (by rwa [leBytes_length])

theorem readBuffer_of_holds {m : Memory} {k : Nat} {bs : List Byte} (h : m.Holds k bs) :
    readBuffer m k (8 * bs.length) = some (BitVec.ofNat 32 (leInt bs)) := by
  rw [readBuffer, Nat.mul_div_cancel_left _ (by decide), Memory.readRange_of_holds h, Option.map_some]

/-! ## Legal accesses of the buffers -/

/-- An aligned access of `n` bytes at byte `k`, inside the buffer, is of a legal form. -/
theorem bufAccessOk_of_bytes {p : Params} {k n : Nat} (hn : n = 1 ∨ n = 2 ∨ n = 4) (aligned : k % n = 0)
    (bound : k + n ≤ p.bufBytes) : bufAccessOk p k (8 * n) = true := by
  rw [bufAccessOk_iff p k (by omega), Nat.mul_div_cancel_left _ (by decide)]
  exact ⟨aligned, bound⟩

/-- A legal buffer access lies inside its window: the capacity is at most the window (20_memory R62). -/
theorem offset_lt_of_bufAccessOk {p : Params} {k width : Nat} (h : bufAccessOk p k width = true) : k < 0x20000 := by
  have := bufAccessOk_bound h
  have := bufAccessOk_width h
  have := bufBytes_le p
  omega

theorem busTarget_of_ibuf {p : Params} {k width : Nat} (h : bufAccessOk p k width = true) :
    busTarget p (BitVec.ofNat 19 (0x20000 + k)) width = some (.ibuf k) := by
  have hk := offset_lt_of_bufAccessOk h
  have offset : (BitVec.ofNat 19 (0x20000 + k)).toNat = 0x20000 + k := by
    rw [BitVec.toNat_ofNat, Nat.mod_eq_of_lt (by omega)]
  rw [busTarget_ibufWindow p width hk offset, if_pos h]

theorem busTarget_of_obuf {p : Params} {k width : Nat} (h : bufAccessOk p k width = true) :
    busTarget p (BitVec.ofNat 19 (0x40000 + k)) width = some (.obuf k) := by
  have hk := offset_lt_of_bufAccessOk h
  have offset : (BitVec.ofNat 19 (0x40000 + k)).toNat = 0x40000 + k := by
    rw [BitVec.toNat_ofNat, Nat.mod_eq_of_lt (by omega)]
  rw [busTarget_obufWindow p width hk offset, if_pos h]

/-! ## The obligations -/

/-- Settles O37: a bus error is an access that reaches nothing, and that is one of the four cases in each region. -/
theorem busErrorsAreTheFourCases : Obligations.BusErrorsAreTheFourCases := fun s off width v hw =>
  have illegal := busTarget_eq_none_iff s.params off hw
  ⟨(hostRead_busError_iff s off width).trans illegal, (hostWrite_busError_iff s off width v).trans illegal⟩

/-- Settles O38: an access that reaches something has one of the three widths. -/
theorem otherWidthsAreBusErrors : Obligations.OtherWidthsAreBusErrors := by
  intro s off width v h8 h16 h32
  have unreached : busTarget s.params off width = none := by
    refine Option.eq_none_iff_forall_ne_some.mpr fun t ht => ?_
    have := width_of_busTarget ht
    omega
  exact ⟨(hostRead_busError_iff s off width).mpr unreached, (hostWrite_busError_iff s off width v).mpr unreached⟩

/-- Settles O42: the step of a read that records no fault is `deliver`, which keeps the value read and can only close the
busy window. -/
theorem hostReadHasNoSideEffect : Obligations.HostReadHasNoSideEffect := by
  intro s t off width es head clear stepped good
  rw [step_of_read clear head, Host.Outcome.next.injEq] at stepped
  subst stepped
  cases value : hostRead (s.withInputs es) off width with
  | error fs =>
    rw [readEvent_of_error value] at good
    exact absurd good (hostRead_error_ne_nil value)
  | ok v =>
    rw [readEvent_of_ok value]
    refine ⟨v, rfl, rfl, fun opened => ?_⟩
    rw [State.deliver_window, Bool.and_eq_true] at opened
    exact opened.1

/-- Settles O48: the access reaches byte `k` of its buffer; a write puts the value's bytes there, low byte first, and
`leInt` of the bytes read is their sum. -/
theorem wideAccessesAreLittleEndian : Obligations.WideAccessesAreLittleEndian := by
  intro s k n closed hn aligned bound
  have legal := bufAccessOk_of_bytes hn aligned bound
  have bytes : 8 * n / 8 = n := Nat.mul_div_cancel_left _ (by decide)
  refine ⟨fun v => ⟨_, hostWrite_of_target v (busTarget_of_ibuf legal) closed, ?_⟩,
    fun v => ⟨_, hostWrite_of_target v (busTarget_of_obuf legal) closed, ?_⟩, fun bs hl => ?_⟩
  · rw [State.writeTarget, bytes]
    exact ⟨fun i hi => Memory.read_writeRange_leBytes _ k v hi,
      fun a ha => Memory.read_writeRange_leBytes_outside _ v ha, rfl⟩
  · rw [State.writeTarget, bytes]
    exact ⟨fun i hi => Memory.read_writeRange_leBytes _ k v hi,
      fun a ha => Memory.read_writeRange_leBytes_outside _ v ha, rfl⟩
  · subst hl
    rw [← leInt_eq_sum]
    exact ⟨fun h => hostRead_of_value (busTarget_of_obuf legal) (readBuffer_of_holds h) (.inl closed),
      fun h => hostRead_of_value (busTarget_of_ibuf legal) (readBuffer_of_holds h) (.inl closed)⟩

/-- Settles O7: the step of an access event is the event's function, with the access's value, state or faults. -/
theorem anEventRunsItsAccess : Obligations.AnEventRunsItsAccess := by
  intro s off width v es clear
  refine ⟨fun head => ?_, fun head => ?_⟩
  · rw [step_of_write clear head]
    exact ⟨fun t h => by rw [writeEvent_of_ok h], fun fs h => by rw [writeEvent_of_error h]; rfl⟩
  · rw [step_of_read clear head]
    exact ⟨fun r h => by rw [readEvent_of_ok h, deliver_eq]; rfl, fun fs h => by rw [readEvent_of_error h]; rfl⟩

end Sys2Proof.Machine
end

section
/-! The command word and the statement `wait` (30_encoding): a word is its two fields, `decode` and `encode` are inverse
on them, and a `wait` is one STATUS read after another until BUSY reads 0. -/

namespace Sys2Proof

/-! ## The fields of a command word (R90) -/

@[simp] theorem rsvdField_encode (i : Instr) : rsvdField (encode i) = 0 := BitVec.extractLsb'_append_eq_left

@[simp] theorem opField_encode (i : Instr) : opField (encode i) = opcode i := BitVec.extractLsb'_append_eq_right

theorem rsvdField_append_opField (w : Word) : rsvdField w ++ opField w = w := by
  have joined : rsvdField w ++ opField w = w.extractLsb' 0 32 :=
    BitVec.extractLsb'_append_extractLsb'_eq_extractLsb' rfl
  rw [joined, BitVec.extractLsb'_eq_self]

theorem eq_encode_iff {w : Word} {i : Instr} : w = encode i ↔ rsvdField w = 0 ∧ opField w = opcode i := by
  refine ⟨?_, fun ⟨rsvd, op⟩ => ?_⟩
  · rintro rfl
    exact ⟨rsvdField_encode i, opField_encode i⟩
  · rw [← rsvdField_append_opField w, rsvd, op, encode]

/-! ## What `decode` answers (R91, R92) -/

theorem decode_of_rsvdField_ne {w : Word} (rsvd : rsvdField w ≠ 0) : decode w = .error .reservedBits := if_pos rsvd

/-- With RSVD zero the command is looked up by OP, and no two commands share an OP. -/
theorem decode_eq_ok_iff_opcode {w : Word} {i : Instr} (rsvd : rsvdField w = 0) :
    decode w = .ok i ↔ opField w = opcode i := by
  rw [decode, if_neg (not_not_intro rsvd)]
  generalize opField w = op
  revert op
  cases i <;> decide

theorem decode_of_reservedOp {w : Word} (rsvd : rsvdField w = 0) (op : 6 ≤ (opField w).toNat) :
    decode w = .error .reservedOp := by
  rw [decode, if_neg (not_not_intro rsvd)]
  revert op
  generalize opField w = op
  revert op
  decide

/-- A word selects a command exactly when it is that command's word. -/
theorem decode_eq_ok_iff {w : Word} {i : Instr} : decode w = .ok i ↔ w = encode i := by
  rw [eq_encode_iff]
  by_cases rsvd : rsvdField w = 0
  · simp only [decode_eq_ok_iff_opcode rsvd, rsvd, true_and]
  · simp only [decode_of_rsvdField_ne rsvd, rsvd, false_and, reduceCtorEq]

/-- Settles O2: both halves are `decode_eq_ok_iff`. -/
theorem decodeAndEncodeAgree : Obligations.DecodeAndEncodeAgree :=
  ⟨fun _ _ => decode_eq_ok_iff.mpr rfl, fun _ _ decoded => (decode_eq_ok_iff.mp decoded).symm⟩

/-- Settles O1: the word of each command is its match value. -/
theorem decodeIsExactlyTheOpcodeMap : Obligations.DecodeIsExactlyTheOpcodeMap := by
  intro w i
  rw [decode_eq_ok_iff]
  cases i <;> simp [encode, opcode]

/-- Settles O3: each sample word is a command's word, has OP 6, or has a bit of RSVD set. -/
theorem sampleWordsDecode : Obligations.SampleWordsDecode :=
  ⟨decode_eq_ok_iff.mpr rfl, decode_eq_ok_iff.mpr rfl, decode_of_reservedOp rfl (by decide),
    decode_of_rsvdField_ne (by decide), decode_of_rsvdField_ne (by decide)⟩

end Sys2Proof

namespace Sys2Proof.Machine

/-! ## The statement `wait` (R95) -/

/-- A `wait` reads STATUS while the engine rests or its reads before the engine's step are not spent. -/
theorem step_of_poll {s : State} {polls : Nat} {es : List Input} (clear : s.faultRecord = [])
    (head : s.inputs = .poll polls :: es) (reading : s.engState = .idle ∨ polls ≠ 0) :
    step s = .next (pollEvent (s.withInputs es) polls) := by
  unfold step stepOnce inputTurn
  rw [clear, head]
  dsimp only
  unfold pollTurn
  obtain idle | unspent := reading
  · rw [idle]
  · obtain ⟨n, rfl⟩ := Nat.exists_eq_succ_of_ne_zero unspent
    cases s.engState <;> rfl

theorem pollEvent_of_busyBit {s : State} (polls : Nat) (busy : busyBit s.status = true) :
    pollEvent s polls = { s with inputs := .poll (polls - 1) :: s.inputs, reads := s.status :: s.reads } := by
  rw [pollEvent, hostRead_status_ok]
  simp [deliver_eq, State.withInputs, busy]

theorem pollEvent_of_not_busyBit {s : State} (polls : Nat) (free : busyBit s.status = false) :
    pollEvent s polls = { s with reads := s.status :: s.reads, window := false } := by
  rw [pollEvent, hostRead_status_ok]
  simp [deliver_eq, statusOff, free]

/-- Settles O50: each step is one STATUS read, which returns STATUS in every state; its BUSY bit decides whether the
statement stays pending. -/
theorem waitPollsUntilNotBusy : Obligations.WaitPollsUntilNotBusy := by
  intro s n es clear
  refine ⟨fun head _ busy => ?_, fun head idle free => ?_⟩
  · rw [step_of_poll clear head (.inr n.succ_ne_zero), pollEvent_of_busyBit (s := s.withInputs es) _ busy]
    rfl
  · rw [step_of_poll clear head (.inl idle), pollEvent_of_not_busyBit (s := s.withInputs es) _ free]
    rfl

end Sys2Proof.Machine
end

section
/-! The CRC (40_crc16): the CRC of joined bytes, the CRC16 command, and the table step as bit-serial division. -/

namespace Sys2Proof.Machine

/-! ## The function `crc16` (R122) -/

@[simp] theorem crc16_nil (init : Half) : crc16 [] init = init := rfl

/-- 40_crc16 R125. -/
theorem crc16_append (as cs : List Byte) (init : Half) : crc16 (as ++ cs) init = crc16 cs (crc16 as init) :=
  List.foldl_append

/-! ## The operand of CRC16 (R130) -/

theorem crcInit_toNat (s : State) : s.crcInit.toNat = s.arg0.toNat % 65536 := by simp [State.crcInit]

theorem crcInit_of_arg0 {s : State} {c : Half} (h : s.arg0 = c.setWidth 32) : s.crcInit = c := by
  rw [State.crcInit, h, BitVec.extractLsb'_setWidth_of_le (by decide), BitVec.extractLsb'_eq_self]

/-! ## Bit-serial division (R121) -/

/-- The shift register is linear: dividing a sum is dividing each part. -/
theorem crcShift_xor : Function.Semiconj₂ crcShift (· ^^^ ·) (· ^^^ ·) := by
  intro c d
  have top : (c ^^^ d).getLsbD 15 = (c.getLsbD 15 ^^ d.getLsbD 15) := BitVec.getLsbD_xor
  simp only [crcShift, top, BitVec.shiftLeft_xor_distrib]
  cases c.getLsbD 15 <;> cases d.getLsbD 15
  case false.false => rfl
  case false.true | true.false =>
    dsimp
    ac_rfl
  case true.true =>
    calc c <<< 1 ^^^ d <<< 1
      _ = c <<< 1 ^^^ d <<< 1 ^^^ (crcPoly ^^^ crcPoly) := by simp
      _ = c <<< 1 ^^^ crcPoly ^^^ (d <<< 1 ^^^ crcPoly) := by ac_rfl

theorem crcShift8_xor (c d : Half) : crcShift8 (c ^^^ d) = crcShift8 c ^^^ crcShift8 d :=
  crcShift_xor.iterate 8 c d

/-- No bit leaves the register while its low byte moves up to the high byte. -/
theorem crcShift8_lowByte (l : Byte) : crcShift8 (l.setWidth 16) = l.setWidth 16 <<< 8 := by
  revert l
  decide

/-- An entry of the table is the remainder of its index in the high byte. -/
theorem crcTable_getD (t : Byte) : crcTable.getD t.toNat 0 = crcShift8 (t.setWidth 16 <<< 8) := by
  revert t
  decide

theorem half_eq_highByte_xor_lowByte (c : Half) :
    c = (((c >>> 8).setWidth 8).setWidth 16 <<< 8) ^^^ (c.setWidth 8).setWidth 16 := by
  ext i hi
  by_cases low : i < 8
  · simp [low, BitVec.getLsbD_eq_getElem hi]
  · have index : 8 + (i - 8) = i := by omega
    have high : i - 8 < 8 := by omega
    simp [low, index, high, BitVec.getLsbD_eq_getElem hi]

theorem lowByte_shiftLeft (c : Half) : (c.setWidth 8).setWidth 16 <<< 8 = c <<< 8 := by
  ext i hi
  have high : i - 8 < 8 := by omega
  simp [high, BitVec.getLsbD_eq_getElem (show i - 8 < 16 by omega)]

/-- The table is looked up with the high byte and the low byte only moves up, which together is one division of both. -/
theorem crcStep_eq_crcShift8 (c : Half) (b : Byte) : crcStep c b = crcShift8 (c ^^^ (b.setWidth 16 <<< 8)) := by
  have bytes : c ^^^ (b.setWidth 16 <<< 8) =
      (((c >>> 8).setWidth 8 ^^^ b).setWidth 16 <<< 8) ^^^ (c.setWidth 8).setWidth 16 := by
    rw [BitVec.setWidth_xor, BitVec.shiftLeft_xor_distrib]
    conv_lhs => rw [half_eq_highByte_xor_lowByte c]
    ac_rfl
  rw [bytes, crcShift8_xor, ← crcTable_getD, crcShift8_lowByte, lowByte_shiftLeft]
  rfl

/-! ## The obligations -/

/-- Settles O20: the table's step is the bit-serial step, byte by byte. -/
theorem tableCrcEqualsBitSerialCrc : Obligations.TableCrcEqualsBitSerialCrc := fun _ init =>
  List.foldl_ext _ _ init fun c b _ => crcStep_eq_crcShift8 c b

/-- Settles O17: the two completions of `exec .crc16`. -/
theorem crc16Result : Obligations.Crc16Result := fun s =>
  ⟨fun large => ⟨_, exec_crc16_large large, raise_raises s .invalidArgument⟩,
    fun _ fits len holds => ⟨_, exec_crc16_of_holds fits len holds, finishOk_succeeds .., finishOk_inputsKept ..,
      fun _ => rfl⟩⟩

/-- Settles O18. -/
theorem emptyCrcReturnsInit : Obligations.EmptyCrcReturnsInit := by
  refine ⟨crc16_nil, fun s empty => ?_⟩
  have holds : s.ibuf.Holds 0 [] := fun _ h => absurd h (Nat.not_lt_zero _)
  have len : ([] : List Byte).length = s.inLen.toNat := by simp [empty]
  refine ⟨_, exec_crc16_of_holds (by simp [empty]) len holds, rfl, ?_⟩
  rw [State.finishOk_res0, crc16_nil, BitVec.toNat_setWidth_of_le (by decide), crcInit_toNat]

/-- Settles O19: the first RES0 is the second initial value. -/
theorem crc16ChainsThroughTheHost : Obligations.Crc16ChainsThroughTheHost := by
  intro s u t as cs sHolds sLen sFits first uHolds uLen uFits arg0
  have done := exec_crc16_of_holds (sLen.trans_le sFits) sLen.symm sHolds
  rw [done, Host.Outcome.next.injEq] at first
  subst first
  refine ⟨_, exec_crc16_of_holds (uLen.trans_le uFits) uLen.symm uHolds, ?_⟩
  rw [State.finishOk_res0, crcInit_of_arg0 arg0, crc16_append, State.crcInit]

end Sys2Proof.Machine
end

section
/-! The CRC of a changed sequence (40_crc16 R122, 41_packet_framer R160): no step of the division loses anything, so
changing one byte always changes the CRC; and a sequence followed by its own CRC has the CRC 0. -/

namespace Sys2Proof.Machine

/-! ## No step of the division loses anything -/

/-- The polynomial ends in a 1, so a bit shifted out always leaves a trace. -/
theorem crcShift_eq_zero {c : Half} (h : crcShift c = 0) : c = 0 := by
  unfold crcShift at h
  split_ifs at h with top
  · have trace : ((c <<< 1) ^^^ crcPoly).getLsbD 0 = true := by simp [crcPoly]
    rw [h] at trace
    cases trace
  · have clear : c.msb = false := by simpa [BitVec.msb_eq_getLsbD_last] using top
    have small := BitVec.msb_eq_false_iff_two_mul_lt.mp clear
    bv_omega

theorem crcShift_injective : Function.Injective crcShift := by
  intro c d h
  have sum : crcShift (c ^^^ d) = crcShift c ^^^ crcShift d := crcShift_xor c d
  rw [h, BitVec.xor_self] at sum
  exact BitVec.xor_eq_zero_iff.mp (crcShift_eq_zero sum)

theorem crcShift8_injective : Function.Injective crcShift8 := crcShift_injective.iterate 8

/-- Two registers stay apart under one more byte. -/
theorem crcStep_injective (b : Byte) : Function.Injective (crcStep · b) := by
  intro c d h
  simp only [crcStep_eq_crcShift8] at h
  exact (BitVec.xor_left_inj _).mp (crcShift8_injective h)

/-- Two bytes lead one register to two. -/
theorem crcStep_injective_byte (c : Half) : Function.Injective (crcStep c) := by
  intro x y h
  rw [crcStep_eq_crcShift8, crcStep_eq_crcShift8] at h
  have high := (BitVec.xor_right_inj _).mp (crcShift8_injective h)
  bv_omega

theorem crc16_injective_init (bs : List Byte) : Function.Injective (crc16 bs) := by
  induction bs with
  | nil => exact Function.injective_id
  | cons b bs ih => exact ih.comp (crcStep_injective b)

/-! ## A changed byte, and an appended CRC -/

/-- After the changed byte the registers differ, and the bytes that follow keep them apart. -/
theorem crc16_set_ne {bs : List Byte} {k : Nat} {y : Byte} (init : Half) (inside : k < bs.length)
    (changed : y ≠ byteAt bs k) : crc16 (bs.set k y) init ≠ crc16 bs init := by
  have old : bs = bs.take k ++ byteAt bs k :: bs.drop (k + 1) := by
    simp [byteAt, inside]
  rw [List.set_eq_take_append_cons_drop, if_pos inside]
  conv_rhs => rw [old]
  rw [crc16_append, crc16_append]
  exact fun same => changed (crcStep_injective_byte _ (crc16_injective_init _ same))

/-- A byte equal to the register's high byte cancels it: only the low byte moves up. -/
theorem crcStep_highByte (c : Half) : crcStep c (c.extractLsb' 8 8) = c <<< 8 := by
  have cancelled : (c >>> 8).setWidth 8 ^^^ c.extractLsb' 8 8 = 0 := BitVec.xor_self
  rw [crcStep, cancelled]
  exact BitVec.zero_xor

theorem crc16_be16_self (c : Half) : crc16 (be16 c) c = 0 := by
  have low : c.extractLsb' 0 8 = (c <<< 8).extractLsb' 8 8 := by
    ext i hi
    simp [show 8 + i < 16 by omega, BitVec.getLsbD_eq_getElem (show i < 16 by omega)]
  have gone : c <<< 8 <<< 8 = 0 := by ext i hi; simp
  calc crc16 (be16 c) c
    _ = crcStep (crcStep c (c.extractLsb' 8 8)) (c.extractLsb' 0 8) := rfl
    _ = 0 := by rw [crcStep_highByte, low, crcStep_highByte, gone]

/-- The CRC of `bs` is the one field that brings the CRC of both to 0. -/
theorem crc16_append_be16_eq_zero_iff (bs : List Byte) (v init : Half) :
    crc16 (bs ++ be16 v) init = 0 ↔ crc16 bs init = v := by
  rw [crc16_append, ← crc16_be16_self v]
  exact (crc16_injective_init _).eq_iff

end Sys2Proof.Machine
end

section
/-! The packet format (41_packet_framer): the fields of a packet and what `parse_packet` answers, for a made packet and
for one with a changed byte. -/

namespace Sys2Proof.Machine

/-! ## Big-endian fields -/

theorem highByte_append_lowByte (v : Half) : v.extractLsb' 8 8 ++ v.extractLsb' 0 8 = v := by
  have joined : v.extractLsb' 8 8 ++ v.extractLsb' 0 8 = v.extractLsb' 0 16 :=
    BitVec.extractLsb'_append_extractLsb'_eq_extractLsb' rfl
  rw [joined, BitVec.extractLsb'_eq_self]

theorem highByte_ofNat (n : Nat) : (BitVec.ofNat 16 n).extractLsb' 8 8 = BitVec.ofNat 8 (n / 256) := by
  apply BitVec.eq_of_toNat_eq
  simp only [BitVec.extractLsb'_toNat, BitVec.toNat_ofNat, Nat.shiftRight_eq_div_pow]
  omega

theorem lowByte_ofNat (n : Nat) : (BitVec.ofNat 16 n).extractLsb' 0 8 = BitVec.ofNat 8 n := by
  apply BitVec.eq_of_toNat_eq
  simp only [BitVec.extractLsb'_toNat, BitVec.toNat_ofNat, Nat.shiftRight_eq_div_pow]
  omega

theorem be16At_be16 (as : List Byte) (v : Half) (cs : List Byte) : be16At (as ++ be16 v ++ cs) as.length = v := by
  simp [be16At, byteAt, be16, highByte_append_lowByte]

theorem be16_be16At (bs : List Byte) (k : Nat) : be16 (be16At bs k) = [byteAt bs k, byteAt bs (k + 1)] := by
  rw [be16, be16At, BitVec.extractLsb'_append_eq_left, BitVec.extractLsb'_append_eq_right]

theorem take_append_be16At {bs : List Byte} {n : Nat} (len : bs.length = n + 2) :
    bs.take n ++ be16 (be16At bs n) = bs := by
  have last : bs.drop n = be16 (be16At bs n) := by
    rw [be16_be16At, List.drop_eq_getElem_cons (by omega), List.drop_eq_getElem_cons (by omega),
      List.drop_eq_nil_of_le (by omega)]
    simp [byteAt, len]
  rw [← last, List.take_append_drop]

theorem byteAt_take {n k : Nat} (bs : List Byte) (h : k < n) : byteAt (bs.take n) k = byteAt bs k := by
  simp [byteAt, h]

theorem be16At_take {n k : Nat} (bs : List Byte) (h : k + 1 < n) : be16At (bs.take n) k = be16At bs k := by
  rw [be16At, byteAt_take bs (by omega), byteAt_take bs h, be16At]

theorem byteAt_set_ne (bs : List Byte) {i k : Nat} (y : Byte) (h : k ≠ i) : byteAt (bs.set k y) i = byteAt bs i := by
  simp [byteAt, h]

theorem be16At_set_ne (bs : List Byte) {i k : Nat} (y : Byte) (h : k < i ∨ i + 1 < k) :
    be16At (bs.set k y) i = be16At bs i := by
  rw [be16At, byteAt_set_ne bs y (by omega), byteAt_set_ne bs y (by omega), be16At]

theorem be16At_setWidth (bs : List Byte) (k : Nat) :
    (be16At bs k).setWidth 32 = BitVec.ofNat 32 (256 * (byteAt bs k).toNat + (byteAt bs (k + 1)).toNat) := by
  rw [← be16At_toNat, ← BitVec.ofNat_toNat]

theorem hasPreamble_take {n : Nat} (bs : List Byte) (h : 3 ≤ n) : hasPreamble (bs.take n) = hasPreamble bs := by
  rw [hasPreamble, List.take_take, min_eq_left h, hasPreamble]

theorem packetCrc_take {n l : Nat} (bs : List Byte) (h : pktHeader + l ≤ n) :
    packetCrc (bs.take n) l = packetCrc bs l := by
  rw [packetCrc, List.take_take, min_eq_left h, packetCrc]

theorem declaredLength_take (bs : List Byte) : declaredLength (bs.take pktHeader) = declaredLength bs := by
  rw [declaredLength, be16At_take bs (by decide), declaredLength]

theorem hasPreamble_iff (hd : List Byte) : hasPreamble hd = true ↔ hd.take 3 = [0xFF, 0x55, 0xAA] := beq_iff_eq

theorem hasPreamble_set_eq_false {bs : List Byte} {k : Nat} {y : Byte} (pre : hasPreamble bs = true)
    (header : k < 3) (inside : k < bs.length) (changed : y ≠ byteAt bs k) : hasPreamble (bs.set k y) = false := by
  rw [← Bool.not_eq_true, hasPreamble_iff, ← (hasPreamble_iff bs).mp pre]
  intro same
  apply changed
  rw [← byteAt_take bs header, ← same, byteAt_take _ header]
  simp [byteAt, inside]

theorem hasPreamble_set_of_le (bs : List Byte) {k : Nat} (y : Byte) (beyond : 3 ≤ k) :
    hasPreamble (bs.set k y) = hasPreamble bs := by
  rw [hasPreamble, List.take_set_of_le beyond, hasPreamble]

theorem declaredLength_set_ne (bs : List Byte) {k : Nat} (y : Byte) (other : k < 7 ∨ 8 < k) :
    declaredLength (bs.set k y) = declaredLength bs := by
  rw [declaredLength, be16At_set_ne bs y other, declaredLength]

/-- The CRC check of R154, byte by byte. -/
theorem packetCrc_eq_iff (bs : List Byte) (l : Nat) : packetCrc bs l = be16At bs (pktHeader + l) ↔
    (crc16 (bs.take (9 + l)) 0).toNat = 256 * (bs.getD (9 + l) 0).toNat + (bs.getD (10 + l) 0).toNat := by
  have next : pktHeader + l + 1 = 10 + l := Nat.add_right_comm 9 l 1
  rw [← BitVec.toNat_inj, be16At_toNat, next]
  rfl

/-! ## The bytes of a packet (R140) -/

/-- The bytes of the packet around `p`, which MAKE_PACKET returns where `p` is not too long (`makePacket_eq_ok_iff`). -/
def packetBytes (c1 c2 : Half) (p : List Byte) : List Byte :=
  packetBody c1 c2 p ++ be16 (crc16 (packetBody c1 c2 p) crcInitFresh)

theorem makePacket_eq_ok_iff {c1 c2 : Half} {p k : List Byte} :
    makePacket c1 c2 p = .ok k ↔ p.length ≤ maxPayload ∧ packetBytes c1 c2 p = k := by
  by_cases short : p.length ≤ maxPayload
  · rw [makePacket_eq short, Except.ok.injEq, packetBytes, and_iff_right short]
  · simp [makePacket, short, Nat.lt_of_not_le short]

section
variable (c1 c2 : Half) (p : List Byte)

theorem packetBytes_length : (packetBytes c1 c2 p).length = p.length + pktOverhead := by
  simp [packetBytes, packetBody_length, be16, pktOverhead]

theorem hasPreamble_packetBytes : hasPreamble (packetBytes c1 c2 p) = true := rfl

theorem be16At_packetBytes_cmd1 : be16At (packetBytes c1 c2 p) 3 = c1 := highByte_append_lowByte c1

theorem be16At_packetBytes_cmd2 : be16At (packetBytes c1 c2 p) 5 = c2 := highByte_append_lowByte c2

theorem be16At_packetBytes_length : be16At (packetBytes c1 c2 p) 7 = BitVec.ofNat 16 p.length :=
  highByte_append_lowByte _

theorem take_packetBytes : (packetBytes c1 c2 p).take (pktHeader + p.length) = packetBody c1 c2 p :=
  List.take_left' (by rw [packetBody_length, Nat.add_comm]; rfl)

theorem payload_packetBytes : ((packetBytes c1 c2 p).drop pktHeader).take p.length = p := List.take_left

theorem packetCrc_packetBytes :
    packetCrc (packetBytes c1 c2 p) p.length = crc16 (packetBody c1 c2 p) crcInitFresh := by
  rw [packetCrc, take_packetBytes]

theorem be16At_packetBytes_crc :
    be16At (packetBytes c1 c2 p) (pktHeader + p.length) = crc16 (packetBody c1 c2 p) crcInitFresh := by
  have field := be16At_be16 (packetBody c1 c2 p) (crc16 (packetBody c1 c2 p) crcInitFresh) []
  rwa [List.append_nil, packetBody_length, Nat.add_comm] at field

theorem crc16_packetBytes : crc16 (packetBytes c1 c2 p) crcInitFresh = 0 :=
  (crc16_append_be16_eq_zero_iff _ _ _).mpr rfl

end

theorem declaredLength_packetBytes (c1 c2 : Half) {p : List Byte} (short : p.length ≤ maxPayload) :
    declaredLength (packetBytes c1 c2 p) = p.length := by
  rw [declaredLength, be16At_packetBytes_length, BitVec.toNat_ofNat]
  exact Nat.mod_eq_of_lt (Nat.lt_succ_of_le short)

theorem makePacket_length_le {c1 c2 : Half} {p k : List Byte} (made : makePacket c1 c2 p = .ok k) (q : Params) :
    k.length ≤ q.bufBytes := by
  obtain ⟨short, rfl⟩ := makePacket_eq_ok_iff.mp made
  rw [packetBytes_length]
  exact (Nat.add_le_add_right short _).trans (bufBytes_ge q)

/-! ## The function `parse_packet` (R150) -/

theorem parsePacket_short {bs : List Byte} (short : bs.length < pktOverhead) :
    parsePacket bs = .error .truncatedPacket := if_pos short

theorem parsePacket_of_badPreamble {bs : List Byte} (long : pktOverhead ≤ bs.length) (bad : hasPreamble bs = false) :
    parsePacket bs = .error .framingError := by
  rw [parsePacket, if_neg (Nat.not_lt.mpr long), if_pos (by rw [bad]; rfl)]

theorem parsePacket_of_longLength {bs : List Byte} (long : pktOverhead ≤ bs.length) (pre : hasPreamble bs = true)
    (beyond : bs.length < declaredLength bs + pktOverhead) : parsePacket bs = .error .truncatedPacket := by
  rw [parsePacket, if_neg (Nat.not_lt.mpr long), if_neg (by rw [pre]; decide), if_pos beyond]

/-- With the preamble right and the declared length inside the buffer, the CRC decides. -/
theorem parsePacket_of_fits {bs : List Byte} (pre : hasPreamble bs = true)
    (fits : declaredLength bs + pktOverhead ≤ bs.length) :
    parsePacket bs =
      if packetCrc bs (declaredLength bs) ≠ be16At bs (pktHeader + declaredLength bs) then .error .crcMismatch
      else .ok ⟨be16At bs 3, be16At bs 5, (bs.drop pktHeader).take (declaredLength bs)⟩ := by
  rw [parsePacket, if_neg (by omega), if_neg (by rw [pre]; decide), if_neg (by omega)]

theorem parsePacket_packetBytes (c1 c2 : Half) {p : List Byte} (short : p.length ≤ maxPayload) :
    parsePacket (packetBytes c1 c2 p) = .ok ⟨c1, c2, p⟩ := by
  have len := declaredLength_packetBytes c1 c2 short
  rw [parsePacket_of_fits (hasPreamble_packetBytes c1 c2 p) (by rw [len, packetBytes_length]), len,
    packetCrc_packetBytes, be16At_packetBytes_crc, if_neg (not_not.mpr rfl), be16At_packetBytes_cmd1,
    be16At_packetBytes_cmd2, payload_packetBytes]

theorem parsePacket_payload_length_lt {bs : List Byte} {q : Packet} (h : parsePacket bs = .ok q) :
    q.payload.length < 2 ^ 16 := by
  unfold parsePacket at h
  split_ifs at h
  cases h
  exact (List.length_take_le _ _).trans_lt (be16At bs 7).isLt

/-! ## One changed byte (R160) -/

/-- The CRC check passes only where the CRC of the whole packet is 0. -/
theorem parsePacket_of_crc16_ne {bs : List Byte} (pre : hasPreamble bs = true)
    (len : bs.length = declaredLength bs + pktOverhead) (wrong : crc16 bs crcInitFresh ≠ 0) :
    parsePacket bs = .error .crcMismatch := by
  rw [parsePacket_of_fits pre len.ge, if_pos]
  intro same
  have lastTwo : bs.length = pktHeader + declaredLength bs + 2 := by
    rw [len, Nat.add_right_comm, Nat.add_comm, pktOverhead, pktHeader]
  rw [← take_append_be16At lastTwo] at wrong
  exact wrong ((crc16_append_be16_eq_zero_iff _ _ _).mpr same)

/-- One changed byte of cmd1, cmd2, the payload or the CRC field changes the CRC of the whole packet, which was 0. -/
theorem parsePacket_packetBytes_set (c1 c2 : Half) {p : List Byte} {k : Nat} {y : Byte}
    (short : p.length ≤ maxPayload) (inside : k < (packetBytes c1 c2 p).length)
    (changed : y ≠ byteAt (packetBytes c1 c2 p) k) (field : 3 ≤ k ∧ k < 7 ∨ 9 ≤ k) :
    parsePacket ((packetBytes c1 c2 p).set k y) = .error .crcMismatch := by
  apply parsePacket_of_crc16_ne
  · rw [hasPreamble_set_of_le _ _ (by omega), hasPreamble_packetBytes]
  · rw [List.length_set, packetBytes_length, declaredLength_set_ne _ _ (by omega),
      declaredLength_packetBytes c1 c2 short]
  · rw [← crc16_packetBytes c1 c2 p]
    exact crc16_set_ne _ inside changed

theorem xor_twoPow_ne (b : Byte) {j : Nat} (h : j < 8) : b ^^^ BitVec.twoPow 8 j ≠ b := by
  intro same
  have zero : BitVec.twoPow 8 j = 0 := by simpa using same
  have bit := congrArg (·.getLsbD j) zero
  simp [h] at bit

end Sys2Proof.Machine
end

section
/-! The packet commands (41_packet_framer): what MAKE_PACKET and PARSE_PACKET make of the bytes they read, and the claims
about packets. -/

namespace Sys2Proof.Machine

/-! ## What PARSE_PACKET makes of the bytes of a packet (R157) -/

/-- `s` after PARSE_PACKET found the bytes `bs`. -/
def State.parsed (s : State) (bs : List Byte) : State :=
  match parsePacket bs with
  | .error e => s.raise e
  | .ok q => (s.writeObuf q.payload).finishOk (BitVec.ofNat 32 q.payload.length) (q.cmd1.setWidth 32)
      (q.cmd2.setWidth 32) (BitVec.ofNat 32 q.payload.length) ((packetCrc bs q.payload.length).setWidth 32) 0 0

theorem parsed_of_error (s : State) {bs : List Byte} {e : ErrKind} (h : parsePacket bs = .error e) :
    s.parsed bs = s.raise e := by
  rw [State.parsed, h]

theorem parsed_of_ok (s : State) {bs : List Byte} {q : Packet} (h : parsePacket bs = .ok q) :
    s.parsed bs = (s.writeObuf q.payload).finishOk (BitVec.ofNat 32 q.payload.length) (q.cmd1.setWidth 32)
      (q.cmd2.setWidth 32) (BitVec.ofNat 32 q.payload.length) ((packetCrc bs q.payload.length).setWidth 32) 0 0 := by
  rw [State.parsed, h]

section
variable {s : State} {hd bs : List Byte} (fits : s.inLen.toNat ≤ s.params.bufBytes)
  (enough : pktOverhead ≤ s.inLen.toNat) (len : hd.length = pktHeader) (holds : s.ibuf.Holds 0 hd)
include fits enough len holds

theorem exec_parsePacket_of_badPreamble (bad : hasPreamble hd = false) :
    exec .parsePacket s = .next (s.raise .framingError) := by
  rw [exec_parsePacket_of_header fits enough len holds, if_pos bad]

theorem exec_parsePacket_of_longLength (pre : hasPreamble hd = true)
    (beyond : s.inLen.toNat < declaredLength hd + pktOverhead) :
    exec .parsePacket s = .next (s.raise .truncatedPacket) := by
  rw [exec_parsePacket_of_header fits enough len holds, if_neg (by simp [pre]), if_pos beyond]

theorem exec_parsePacket_of_bytes (pre : hasPreamble hd = true)
    (cover : declaredLength hd + pktOverhead ≤ s.inLen.toNat) (bsLen : bs.length = declaredLength hd + pktOverhead)
    (bsHolds : s.ibuf.Holds 0 bs) :
    exec .parsePacket s =
      if packetCrc bs (declaredLength hd) ≠ be16At bs (pktHeader + declaredLength hd) then .next (s.raise .crcMismatch)
      else .next ((s.writeObuf ((bs.drop pktHeader).take (declaredLength hd))).finishOk
        (BitVec.ofNat 32 (declaredLength hd)) ((be16At hd 3).setWidth 32) ((be16At hd 5).setWidth 32)
        (BitVec.ofNat 32 (declaredLength hd)) ((packetCrc bs (declaredLength hd)).setWidth 32) 0 0) := by
  rw [exec_parsePacket_of_header fits enough len holds, if_neg (by simp [pre]), if_neg (Nat.not_lt.mpr cover),
    withInput_of_length bsLen bsHolds]

end

/-- The command reads the packet's bytes and no more, so a larger IN_LEN changes nothing (R155). -/
theorem exec_parsePacket_of_packet {s : State} {bs : List Byte} (fits : s.inLen.toNat ≤ s.params.bufBytes)
    (cover : bs.length ≤ s.inLen.toNat) (holds : s.ibuf.Holds 0 bs) (pre : hasPreamble bs = true)
    (inside : declaredLength bs + pktOverhead ≤ bs.length) : exec .parsePacket s = .next (s.parsed bs) := by
  have h9 : pktHeader = 9 := rfl
  have h11 : pktOverhead = 11 := rfl
  have size := declaredLength_take bs
  have payloadLen : ((bs.drop pktHeader).take (declaredLength bs)).length = declaredLength bs := by
    rw [List.length_take, List.length_drop]; omega
  have done := exec_parsePacket_of_bytes fits (by omega) (List.length_take_of_le (by omega)) (holds.take pktHeader)
    ((hasPreamble_take bs (by decide)).trans pre) (by omega)
    ((List.length_take_of_le inside).trans (by rw [size])) (holds.take (declaredLength bs + pktOverhead))
  rw [size, packetCrc_take bs (by omega), List.drop_take, List.take_take, min_eq_left (by omega),
    be16At_take bs (by omega), be16At_take bs (by decide), be16At_take bs (by decide)] at done
  have answer := parsePacket_of_fits pre inside
  rw [done]
  split_ifs at answer ⊢
  · rw [parsed_of_error s answer]
  · rw [parsed_of_ok s answer, payloadLen]

/-- The command performs the function on a buffer all of whose bytes were written. -/
theorem exec_parsePacket_of_holds {s : State} {bs : List Byte} (len : s.inLen.toNat = bs.length)
    (fits : bs.length ≤ s.params.bufBytes) (holds : s.ibuf.Holds 0 bs) :
    exec .parsePacket s = .next (s.parsed bs) := by
  obtain short | long := Nat.lt_or_ge bs.length pktOverhead
  · rw [exec_parsePacket_short (len ▸ short), parsed_of_error s (parsePacket_short short)]
  have hdLen : (bs.take pktHeader).length = pktHeader := List.length_take_of_le (le_trans (by decide) long)
  cases pre : hasPreamble bs with
  | false =>
    rw [exec_parsePacket_of_badPreamble (len ▸ fits) (len ▸ long) hdLen (holds.take _)
      ((hasPreamble_take bs (by decide)).trans pre), parsed_of_error s (parsePacket_of_badPreamble long pre)]
  | true =>
    obtain beyond | inside := Nat.lt_or_ge bs.length (declaredLength bs + pktOverhead)
    · rw [exec_parsePacket_of_longLength (len ▸ fits) (len ▸ long) hdLen (holds.take _)
        ((hasPreamble_take bs (by decide)).trans pre) (by rwa [declaredLength_take, len]),
        parsed_of_error s (parsePacket_of_longLength long pre beyond)]
    · exact exec_parsePacket_of_packet (len ▸ fits) len.ge holds pre inside

/-! ## MAKE_PACKET (R145) -/

theorem exec_makePacket_of_payload {s : State} {p : List Byte} (short : s.inLen.toNat ≤ maxPayload)
    (len : p.length = s.inLen.toNat) (holds : s.ibuf.Holds 0 p) :
    exec .makePacket s = .next ((s.writeObuf (packetBytes s.cmd1 s.cmd2 p)).finishOk
      (BitVec.ofNat 32 (p.length + pktOverhead))
      ((packetCrc (packetBytes s.cmd1 s.cmd2 p) p.length).setWidth 32) 0 0 0 0 0) := by
  have made : makePacket s.cmd1 s.cmd2 p = .ok (packetBytes s.cmd1 s.cmd2 p) :=
    makePacket_eq_ok_iff.mpr ⟨len ▸ short, rfl⟩
  have fits : s.inLen.toNat ≤ s.params.bufBytes := (short.trans (by decide)).trans (bufBytes_ge s.params)
  rw [exec_makePacket_of_holds fits len holds made, Nat.add_comm p.length pktHeader, be16At_packetBytes_crc,
    packetCrc_packetBytes]

/-- The first `OUT_LEN` bytes a successful MAKE_PACKET leaves are the packet of its payload. -/
theorem makePacket_eq_of_exec {s t : State} {p k : List Byte} (done : exec .makePacket s = .next t)
    (ok : t.status = 0x00000002) (pLen : p.length = s.inLen.toNat) (pHolds : s.ibuf.Holds 0 p)
    (kLen : k.length = t.outLen.toNat) (kHolds : t.obuf.Holds 0 k) :
    makePacket s.cmd1 s.cmd2 p = .ok k := by
  obtain long | short := Nat.lt_or_ge maxPayload s.inLen.toNat
  · rw [exec_makePacket_large (.inr long), Host.Outcome.next.injEq] at done
    subst done
    cases ok
  rw [exec_makePacket_of_payload short pLen pHolds, Host.Outcome.next.injEq] at done
  subst done
  refine makePacket_eq_ok_iff.mpr ⟨pLen ▸ short, (Memory.writeRange_holds _ 0 _).unique kHolds ?_⟩
  have h11 : pktOverhead = 11 := rfl
  have hmax : maxPayload = 65535 := rfl
  rw [kLen, packetBytes_length, State.finishOk_outLen, BitVec.toNat_ofNat, Nat.mod_eq_of_lt (by omega)]

theorem cmd1_toNat (s : State) : s.cmd1.toNat = s.arg0.toNat % 65536 := crcInit_toNat s

theorem cmd2_toNat (s : State) : s.cmd2.toNat = s.arg1.toNat % 65536 := by simp [State.cmd2]

/-! ## What PARSE_PACKET read, where it goes on (R155) -/

/-- PARSE_PACKET that goes on found its nine header bytes. -/
theorem header_of_exec_parsePacket {s t : State} (fits : s.inLen.toNat ≤ s.params.bufBytes)
    (enough : pktOverhead ≤ s.inLen.toNat) (done : exec .parsePacket s = .next t) :
    ∃ hd : List Byte, hd.length = pktHeader ∧ s.ibuf.Holds 0 hd := by
  rw [← written_iff_holds]
  by_contra missing
  rw [exec_parsePacket_unwritten_header fits enough missing] at done
  cases done

/-- PARSE_PACKET that goes on, with a right preamble and a length that fits, found all bytes of the packet. -/
theorem packet_of_exec_parsePacket {s t : State} {hd : List Byte} (fits : s.inLen.toNat ≤ s.params.bufBytes)
    (enough : pktOverhead ≤ s.inLen.toNat) (len : hd.length = pktHeader) (holds : s.ibuf.Holds 0 hd)
    (pre : hasPreamble hd = true) (cover : declaredLength hd + pktOverhead ≤ s.inLen.toNat)
    (done : exec .parsePacket s = .next t) :
    ∃ bs : List Byte, bs.length = declaredLength hd + pktOverhead ∧ s.ibuf.Holds 0 bs := by
  rw [exec_parsePacket_of_header fits enough len holds, if_neg (by simp [pre]), if_neg (by omega)] at done
  obtain ⟨bs, bsLen, bsHolds, -⟩ := withInput_eq_next.mp done
  exact ⟨bs, bsLen, bsHolds⟩

theorem Memory.AgreeBelow.holds {m m' : Memory} {n : Nat} {bs : List Byte} (agree : m.AgreeBelow m' n)
    (holds : m.Holds 0 bs) (len : bs.length ≤ n) : m'.Holds 0 bs := by
  intro k inside
  rw [← holds k inside, agree (0 + k) (by omega)]

/-! ## Completions alike (44_control R237) -/

theorem sameCompletion_raise (s s' : State) (e : ErrKind) : SameCompletion (s.raise e) (s'.raise e) :=
  ⟨rfl, rfl, rfl, rfl, rfl, rfl, rfl, rfl, rfl, fun _ below => absurd below (Nat.not_lt_zero _)⟩

theorem sameCompletion_output (s s' : State) (k : List Byte) {n : Word} (r0 r1 r2 r3 r4 r5 : Word)
    (counted : n.toNat ≤ k.length) : SameCompletion ((s.writeObuf k).finishOk n r0 r1 r2 r3 r4 r5)
      ((s'.writeObuf k).finishOk n r0 r1 r2 r3 r4 r5) := by
  refine ⟨rfl, rfl, rfl, rfl, rfl, rfl, rfl, rfl, rfl, fun a below => ?_⟩
  have inside : a < k.length := below.trans_le counted
  simp [Memory.read_writeRange, inside]

theorem sameCompletion_parsed (s s' : State) (bs : List Byte) : SameCompletion (s.parsed bs) (s'.parsed bs) := by
  cases answer : parsePacket bs with
  | error e =>
    rw [parsed_of_error s answer, parsed_of_error s' answer]
    exact sameCompletion_raise s s' e
  | ok q =>
    rw [parsed_of_ok s answer, parsed_of_ok s' answer]
    exact sameCompletion_output _ _ _ _ _ _ _ _ _ (Nat.mod_le _ _)

/-! ## A length field that shrinks (R160) -/

/-- The packet of R160's example: shortened to an empty payload, its first two payload bytes are the right CRC. -/
def shortenablePacket : List Byte := packetBytes 0x0102 0x0304 [0x7F, 0x99]

/-- That packet in IBUF with its length field 2 made 0. -/
def shortenedPacketState : State :=
  (State.reset.withIbuf (Memory.writeRange [] 0 (shortenablePacket.set 8 0))).withInLen 13

theorem parsePacket_shortened : parsePacket (shortenablePacket.set 8 0) = .ok ⟨0x0102, 0x0304, []⟩ := by
  decide +kernel

/-! ## The obligations -/

/-- Settles O21: nine header bytes, then the payload, then the two bytes of the CRC. -/
theorem packetLayout : Obligations.PacketLayout := by
  intro c1 c2 p k made
  obtain ⟨short, rfl⟩ := makePacket_eq_ok_iff.mp made
  have body : (packetBytes c1 c2 p).take (9 + p.length) = packetBody c1 c2 p := take_packetBytes c1 c2 p
  have bodyLen := packetBody_length c1 c2 p
  rw [body]
  refine ⟨short, packetBytes_length c1 c2 p, rfl, rfl, rfl, rfl, rfl, rfl, rfl, congrArg some (highByte_ofNat _),
    congrArg some (lowByte_ofNat _), fun j inside => ?_, ?_, ?_⟩
  · have payload := congrArg (·[j]?) (payload_packetBytes c1 c2 p)
    simpa [inside, pktHeader] using payload
  · rw [packetBytes, List.getElem?_append_right (by omega),
      show 9 + p.length - (packetBody c1 c2 p).length = 0 by omega]
    rfl
  · rw [packetBytes, List.getElem?_append_right (by omega),
      show 10 + p.length - (packetBody c1 c2 p).length = 1 by omega]
    rfl

/-- Settles O22: the two completions of `exec .makePacket`. -/
theorem makePacketResult : Obligations.MakePacketResult := by
  intro s
  refine ⟨fun large => ⟨_, exec_makePacket_large large, raise_raises s .invalidArgument⟩,
    fun p _ short len holds => ⟨_, _, exec_makePacket_of_payload short len holds,
      makePacket_eq_ok_iff.mpr ⟨len ▸ short, rfl⟩, finishOk_succeeds .., output_outputIs .., output_inputsKept ..⟩⟩

/-- Settles O23: the paths of `exec .parsePacket`, from the bytes each of them reads. -/
theorem parsePacketResult : Obligations.ParsePacketResult := by
  intro s
  refine ⟨fun large => ⟨_, exec_parsePacket_large large, raise_raises s .invalidArgument⟩,
    fun short => ⟨_, exec_parsePacket_short short, raise_raises s .truncatedPacket⟩,
    fun hd enough fits hdLen hdHolds => ⟨fun bad => ?_, fun l pre size => ⟨fun beyond => ?_, ?_⟩⟩⟩
  · have bad : hasPreamble hd = false := by rwa [← Bool.not_eq_true, hasPreamble_iff]
    exact ⟨_, exec_parsePacket_of_badPreamble fits enough hdLen hdHolds bad, raise_raises s .framingError⟩
  · rw [← hasPreamble_iff] at pre
    have size : l = declaredLength hd := size.trans (be16At_toNat hd 7).symm
    exact ⟨_, exec_parsePacket_of_longLength fits enough hdLen hdHolds pre (size ▸ beyond),
      raise_raises s .truncatedPacket⟩
  · intro bs cover bsLen bsHolds
    rw [← hasPreamble_iff] at pre
    obtain rfl : l = declaredLength hd := size.trans (be16At_toNat hd 7).symm
    have done := exec_parsePacket_of_bytes fits enough hdLen hdHolds pre cover bsLen bsHolds
    rw [be16At_setWidth, be16At_setWidth] at done
    have check := packetCrc_eq_iff bs (declaredLength hd)
    exact ⟨fun wrong => ⟨_, done.trans (if_pos (check.not.mpr wrong)), raise_raises s .crcMismatch⟩,
      fun right => ⟨_, done.trans (if_neg (not_not.mpr (check.mpr right))), finishOk_succeeds .., output_outputIs ..,
        output_inputsKept ..⟩⟩

/-- Settles O24: the command completes as `State.parsed` says. -/
theorem parsePacketPerformsTheFunction : Obligations.ParsePacketPerformsTheFunction := by
  intro s bs len fits holds
  refine ⟨fun e failed => ⟨_, exec_parsePacket_of_holds len fits holds, ?_⟩,
    fun q parsed => ⟨_, exec_parsePacket_of_holds len fits holds, ?_⟩⟩
  · rw [parsed_of_error s failed]
    exact raise_raises s e
  · have small := parsePacket_payload_length_lt parsed
    rw [parsed_of_ok s parsed]
    exact ⟨rfl, rfl, rfl, Nat.mod_eq_of_lt (small.trans (by decide)), output_outputIs ..⟩

/-- Settles O25: both commands stop at the same nine header bytes, or both complete from the same packet bytes. -/
theorem bytesBeyondThePacketAreIgnored : Obligations.BytesBeyondThePacketAreIgnored := by
  intro s s' t l b7 b8 params agree read7 read8 size cover fits cover' fits' done
  have h9 : pktHeader = 9 := rfl
  have h11 : pktOverhead = 11 := rfl
  obtain ⟨hd, hdLen, hdHolds⟩ := header_of_exec_parsePacket fits (by omega) done
  have hdHolds' : s'.ibuf.Holds 0 hd := agree.holds hdHolds (by omega)
  have hdSize : declaredLength hd = l := by
    rw [← peekLength_of_holds hdHolds hdLen.ge, size]
    simp [State.peekLength, State.peek, read7, read8]
  cases pre : hasPreamble hd with
  | false =>
    rw [exec_parsePacket_of_badPreamble fits (by omega) hdLen hdHolds pre, Host.Outcome.next.injEq] at done
    subst done
    exact ⟨_, exec_parsePacket_of_badPreamble fits' (by omega) hdLen hdHolds' pre, sameCompletion_raise ..⟩
  | true =>
    obtain ⟨bs, bsLen, bsHolds⟩ := packet_of_exec_parsePacket fits (by omega) hdLen hdHolds pre (by omega) done
    obtain rfl : hd = bs.take pktHeader := hdHolds.unique (bsHolds.take _) (by rw [hdLen, List.length_take]; omega)
    rw [hasPreamble_take bs (by decide)] at pre
    rw [declaredLength_take] at bsLen hdSize
    rw [exec_parsePacket_of_packet fits (by omega) bsHolds pre bsLen.ge, Host.Outcome.next.injEq] at done
    subst done
    exact ⟨_, exec_parsePacket_of_packet fits' (by omega) (agree.holds bsHolds (by omega)) pre bsLen.ge,
      sameCompletion_parsed ..⟩

/-- Settles O26: the bytes OBUF holds are the made packet, which parses to its parts. -/
theorem packetRoundTrip : Obligations.PacketRoundTrip := by
  refine ⟨fun c1 c2 p short => ⟨_, makePacket_eq_ok_iff.mpr ⟨short, rfl⟩, parsePacket_packetBytes c1 c2 short⟩, ?_⟩
  intro s t u p k done ok pLen pHolds kLen kOut kIn inLen
  have made := makePacket_eq_of_exec done ok pLen pHolds kLen kOut
  have fits := makePacket_length_le made u.params
  obtain ⟨short, rfl⟩ := makePacket_eq_ok_iff.mp made
  have parsed := parsePacket_packetBytes s.cmd1 s.cmd2 short
  refine ⟨_, exec_parsePacket_of_holds (by rw [inLen, kLen]) fits kIn, ?_⟩
  rw [parsed_of_ok u parsed]
  refine ⟨rfl, ?_, Memory.writeRange_holds _ 0 p, ?_, ?_⟩
  · simp [pLen]
  · rw [State.finishOk_res0, BitVec.toNat_setWidth_of_le (by decide), cmd1_toNat]
  · rw [State.finishOk_res1, BitVec.toNat_setWidth_of_le (by decide), cmd2_toNat]

/-- Settles O27: `parse_packet` of the flipped packet, field by field, and rule R160's own example of a success. -/
theorem tamperDetection : Obligations.TamperDetection := by
  refine ⟨?_, ?_⟩
  · intro c1 c2 p b k j s made inside bit flipped l' len holds
    have changed : b.getD k 0 ^^^ BitVec.twoPow 8 j ≠ byteAt b k := xor_twoPow_ne _ bit
    have flippedLen : flipped.length = b.length := List.length_set
    have fits : flipped.length ≤ s.params.bufBytes := flippedLen.trans_le (makePacket_length_le made s.params)
    have size : l' = declaredLength flipped := (be16At_toNat flipped 7).symm
    obtain ⟨raises, succeeds⟩ := parsePacketPerformsTheFunction s flipped (len.trans flippedLen.symm) fits holds
    obtain ⟨short, rfl⟩ := makePacket_eq_ok_iff.mp made
    have long : pktOverhead ≤ flipped.length := by rw [flippedLen, packetBytes_length]; omega
    have pre (beyond : 3 ≤ k) : hasPreamble flipped = true := hasPreamble_set_of_le _ _ beyond
    refine ⟨fun field => raises _ (parsePacket_packetBytes_set c1 c2 short inside changed field),
      fun field => raises _ (parsePacket_of_badPreamble long
        (hasPreamble_set_eq_false (hasPreamble_packetBytes c1 c2 p) field inside changed)),
      fun field beyond => raises _ (parsePacket_of_longLength long (pre (by omega)) (by rwa [← size, flippedLen])),
      fun field within => ?_⟩
    have answer := parsePacket_of_fits (pre (by omega)) (by rwa [← size, flippedLen])
    split_ifs at answer
    · obtain ⟨t, done, raised⟩ := raises _ answer
      exact ⟨t, done, .inl raised⟩
    · obtain ⟨t, done, ok, -⟩ := succeeds _ answer
      exact ⟨t, done, .inr ok⟩
  · have made : makePacket 0x0102 0x0304 [0x7F, 0x99] = .ok shortenablePacket :=
      makePacket_eq_ok_iff.mpr ⟨by decide, rfl⟩
    have holds : shortenedPacketState.ibuf.Holds 0 (shortenablePacket.set 8 0) := Memory.writeRange_holds _ _ _
    obtain ⟨t, done, ok, -⟩ :=
      (parsePacketPerformsTheFunction shortenedPacketState _ rfl (by decide) holds).2 _ parsePacket_shortened
    exact ⟨_, _, _, _, 8, 1, _, t, made, by decide, by decide, by decide, rfl, holds, done, ok⟩

end Sys2Proof.Machine
end

section
/-! The CAN transmit header (42_can_header_codec): the 40-bit header as a number, its five bytes, and ENCODE_CAN_HEADER
as a function of ARG0 and ARG1. -/

namespace Sys2Proof.Machine

/-! ## The bytes of a little-endian number (00_scope R11) -/

theorem leBytes_eq_map (n v : Nat) : leBytes n v = (List.range n).map fun k => BitVec.ofNat 8 (v / 256 ^ k) := by
  apply List.ext_getElem? fun k => ?_
  obtain inside | beyond := Nat.lt_or_ge k n
  · simp [leBytes_getElem? v inside, inside, Nat.shiftRight_eq_div_pow, Nat.pow_mul]
  · simp [leBytes_length, beyond]

theorem leInt_leBytes (n v : Nat) : leInt (leBytes n v) = v % 256 ^ n := by
  induction n generalizing v with
  | zero => rw [Nat.pow_zero, Nat.mod_one]; rfl
  | succ n ih => rw [leBytes, leInt, ih, BitVec.toNat_ofNat, Nat.pow_succ' (n := n), Nat.mod_mul]

theorem take_leBytes {m n : Nat} (v : Nat) (h : m ≤ n) : (leBytes n v).take m = leBytes m v := by
  rw [leBytes_eq_map, leBytes_eq_map, ← List.map_take, List.take_range, Nat.min_eq_left h]

theorem byteAt_leBytes {n k : Nat} (v : Nat) (h : k < n) : byteAt (leBytes n v) k = BitVec.ofNat 8 (v / 256 ^ k) := by
  simp [byteAt, leBytes_eq_map, h]

/-! ## The largest ID (R174) -/

theorem maxCanId_lt (ext : Bool) : maxCanId ext < 2 ^ 29 := by cases ext <;> decide

theorem maxCanId_lt_iff (ext : Bool) (id : Nat) :
    maxCanId ext < id ↔ ext.toNat = 0 ∧ 0x7FF < id ∨ ext.toNat = 1 ∧ 0x1FFFFFFF < id := by
  cases ext <;> simp [maxCanId]

theorem le_maxCanId_iff (ext : Bool) (id : Nat) :
    id ≤ maxCanId ext ↔ ext.toNat = 0 ∧ id ≤ 0x7FF ∨ ext.toNat = 1 ∧ id ≤ 0x1FFFFFFF := by
  cases ext <;> simp [maxCanId]

/-! ## The header as a number (R172) -/

@[simp] theorem txFlag_false (k : Nat) : txFlag false k = 0#40 := BitVec.zero_shiftLeft k

theorem txFlag_toNat (b : Bool) {k : Nat} (h : k < 40) : (txFlag b k).toNat = 2 ^ k * b.toNat := by
  cases b with
  | false => simp
  | true => simp [txFlag, Nat.shiftLeft_eq, Nat.mod_eq_of_lt (Nat.pow_lt_pow_right (by decide : 1 < 2) h)]

/-- A field that begins above all bits set so far adds its value at its place. -/
theorem or_field_eq_add {low k : Nat} (v : Nat) (below : low < 2 ^ k) : low ||| 2 ^ k * v = low + 2 ^ k * v := by
  rw [Nat.or_comm, ← Nat.two_pow_add_eq_or_of_lt below, Nat.add_comm]

theorem canHeaderBits_toNat (ts : Bool) {id : Word} (fd ext brs : Bool) (fits : id.toNat < 2 ^ 29) :
    (canHeaderBits ts id fd ext brs).toNat =
      ts.toNat + 2 ^ 2 * id.toNat + 2 ^ 31 * fd.toNat + 2 ^ 33 * ext.toNat + 2 ^ 34 * brs.toNat := by
  have idField : (id.setWidth 40 <<< txIdLsb).toNat = 2 ^ 2 * id.toNat := by
    rw [BitVec.toNat_shiftLeft, BitVec.toNat_setWidth_of_le (by decide), Nat.shiftLeft_eq, txIdLsb]
    omega
  have tsBit := ts.toNat_le
  have fdBit := fd.toNat_le
  have extBit := ext.toNat_le
  simp only [canHeaderBits, txFlag_false, BitVec.or_zero, BitVec.toNat_or, idField]
  rw [txFlag_toNat ts (by decide), txFlag_toNat fd (by decide), txFlag_toNat ext (by decide),
    txFlag_toNat brs (by decide)]
  simp only [txTsLsb, txFdfLsb, txIdeLsb, txBrsLsb, Nat.pow_zero, Nat.one_mul]
  rw [or_field_eq_add (k := 2) _ (by omega), or_field_eq_add (k := 31) _ (by omega),
    or_field_eq_add (k := 33) _ (by omega), or_field_eq_add (k := 34) _ (by omega)]

/-! ## ENCODE_CAN_HEADER (R178) -/

theorem obuf_read_output (s : State) {bs : List Byte} {k : Nat} (inside : k < bs.length) (n r0 r1 r2 r3 r4 r5 : Word) :
    ((s.writeObuf bs).finishOk n r0 r1 r2 r3 r4 r5).obuf.read k = some bs[k] := by
  simp [Memory.read_writeRange, inside]

/-- The header ENCODE_CAN_HEADER encodes: it depends on ARG0 and ARG1 only. -/
def State.canHeader (s : State) : BitVec 40 := canHeaderBits s.tsEnabled s.canId s.fd s.extended s.brs

theorem canHeader_toNat {s : State} (fits : s.canId.toNat ≤ maxCanId s.extended) :
    s.canHeader.toNat = s.tsEnabled.toNat + 2 ^ 2 * s.canId.toNat + 2 ^ 31 * s.fd.toNat + 2 ^ 33 * s.extended.toNat +
      2 ^ 34 * s.brs.toNat :=
  canHeaderBits_toNat _ _ _ _ (fits.trans_lt (maxCanId_lt _))

/-- With an ID that fits its kind the command completes, with the header's bytes and its two words. -/
theorem exec_encodeCanHeader_of_fits {s : State} (fits : s.canId.toNat ≤ maxCanId s.extended) :
    exec .encodeCanHeader s = .next ((s.writeObuf (leBytes canHdrLen s.canHeader.toNat)).finishOk 5
      (BitVec.ofNat 32 s.canHeader.toNat) (BitVec.ofNat 32 (s.canHeader.toNat / 2 ^ 32)) 0 0 0 0) := by
  have encoded : encodeCanHeader s.tsEnabled s.canId s.fd s.extended s.brs =
      .ok (leBytes canHdrLen s.canHeader.toNat) := if_neg (Nat.not_lt.mpr fits)
  have low : BitVec.ofNat 32 (leInt ((leBytes canHdrLen s.canHeader.toNat).take 4)) =
      BitVec.ofNat 32 s.canHeader.toNat := by
    rw [take_leBytes _ (by decide), leInt_leBytes]
    exact BitVec.eq_of_toNat_eq (Nat.mod_mod _ _)
  have high : (byteAt (leBytes canHdrLen s.canHeader.toNat) 4).setWidth 32 =
      BitVec.ofNat 32 (s.canHeader.toNat / 2 ^ 32) := by
    have bits := s.canHeader.isLt
    rw [byteAt_leBytes _ (by decide), BitVec.setWidth_ofNat_of_le_of_lt (by decide) (by omega)]
    rfl
  rw [exec_encodeCanHeader_ok encoded, low, high]
  rfl

/-- ENCODE_CAN_HEADER succeeds only for an ID that fits its kind. -/
theorem fits_of_exec_encodeCanHeader {s t : State} (done : exec .encodeCanHeader s = .next t)
    (ok : t.status = 0x00000002) : s.canId.toNat ≤ maxCanId s.extended := by
  by_contra large
  rw [exec_encodeCanHeader_error (Nat.lt_of_not_le large), Host.Outcome.next.injEq] at done
  subst done
  cases ok

/-! ## The obligations -/

/-- Settles O28: the two completions of `exec .encodeCanHeader`; the header's number is the sum of its fields. -/
theorem encodeCanHeaderResult : Obligations.EncodeCanHeaderResult := by
  intro s id ts fd ext brs h
  refine ⟨fun large => ?_, fun small => ?_⟩
  · exact ⟨_, exec_encodeCanHeader_error ((maxCanId_lt_iff s.extended id).mpr large), raise_raises s .idOutOfRange⟩
  · have fits : s.canId.toNat ≤ maxCanId s.extended := (le_maxCanId_iff s.extended id).mpr small
    have value : s.canHeader.toNat = h := canHeader_toNat fits
    rw [exec_encodeCanHeader_of_fits fits, value, ← leBytes_eq_map]
    exact ⟨_, rfl, finishOk_succeeds .., output_outputIs .., output_inputsKept ..⟩

/-- Settles O29: both commands encode one header, so they complete alike. -/
theorem encodeCanHeaderIsRepeatable : Obligations.EncodeCanHeaderIsRepeatable := by
  intro s s' t arg0 arg1 done ok
  have fits := fits_of_exec_encodeCanHeader done ok
  have fits' : s'.canId.toNat ≤ maxCanId s'.extended := by
    rwa [State.canId, State.extended, arg0, arg1]
  have header : s'.canHeader = s.canHeader := by
    simp only [State.canHeader, State.tsEnabled, State.canId, State.fd, State.extended, State.brs, arg0, arg1]
  rw [exec_encodeCanHeader_of_fits fits, Host.Outcome.next.injEq] at done
  subst done
  refine ⟨_, exec_encodeCanHeader_of_fits fits', ?_⟩
  rw [header]
  refine ⟨rfl, rfl, rfl, fun k inside => ?_⟩
  have inside : k < (leBytes canHdrLen s.canHeader.toNat).length := (leBytes_length ..).symm ▸ inside
  exact ⟨_, obuf_read_output _ inside .., obuf_read_output _ inside ..⟩

end Sys2Proof.Machine
end

section
/-! The receive frame (43_frame_decoder): the bits of a byte sequence, the frame record as a function of header and
data, and what the classifier, the route tag and RES0 make of the header's fields. -/

namespace Sys2Proof.Machine

/-! ## The bit stream (00_scope R12) -/

/-- Stream bit `i` is bit `i % 8` of byte `i / 8`. -/
theorem testBit_leInt (bs : List Byte) (i : Nat) : (leInt bs).testBit i = (byteAt bs (i / 8)).getLsbD (i % 8) := by
  induction bs generalizing i with
  | nil => simp [leInt, byteAt]
  | cons b bs ih =>
    have split : leInt (b :: bs) = 2 ^ 8 * leInt bs + b.toNat := Nat.add_comm ..
    rw [split, Nat.testBit_two_pow_mul_add _ b.isLt]
    split_ifs with first
    · rw [Nat.div_eq_of_lt first, Nat.mod_eq_of_lt first, BitVec.testBit_toNat]
      rfl
    · obtain ⟨j, rfl⟩ := Nat.exists_eq_add_of_le (Nat.le_of_not_lt first)
      rw [ih, Nat.add_sub_cancel_left, Nat.add_mod_left, Nat.add_div_left _ (by decide), byteAt, byteAt,
        List.getD_cons_succ]

theorem field_eq_div (bs : List Byte) (lo w : Nat) : field bs lo w = leInt bs / 2 ^ lo % 2 ^ w := by
  rw [field, Nat.shiftRight_eq_div_pow]

theorem field_lt (bs : List Byte) (lo w : Nat) : field bs lo w < 2 ^ w := Nat.mod_lt _ (Nat.two_pow_pos w)

theorem testBit_field (bs : List Byte) (lo w i : Nat) :
    (field bs lo w).testBit i = (decide (i < w) && (leInt bs).testBit (lo + i)) := by
  rw [field, Nat.testBit_mod_two_pow, Nat.testBit_shiftRight]

theorem fieldFlag_eq_testBit (bs : List Byte) (lo : Nat) : fieldFlag bs lo = (leInt bs).testBit lo := by
  rw [fieldFlag, field_eq_div, Nat.testBit_eq_decide_div_mod_eq]
  rfl

theorem toNat_fieldFlag (bs : List Byte) (lo : Nat) : (fieldFlag bs lo).toNat = leInt bs / 2 ^ lo % 2 := by
  rw [fieldFlag_eq_testBit, Nat.toNat_testBit]

/-! ## One flipped stream bit -/

/-- The bytes with stream bit `i` flipped. -/
def flipBit (bs : List Byte) (i : Nat) : List Byte :=
  bs.set (i / 8) (byteAt bs (i / 8) ^^^ BitVec.twoPow 8 (i % 8))

theorem byteAt_set_self {bs : List Byte} {k : Nat} (y : Byte) (inside : k < bs.length) : byteAt (bs.set k y) k = y := by
  simp [byteAt, inside]

theorem testBit_leInt_flipBit {bs : List Byte} {i : Nat} (inside : i / 8 < bs.length) (j : Nat) :
    (leInt (flipBit bs i)).testBit j = ((leInt bs).testBit j ^^ decide (i = j)) := by
  rw [testBit_leInt, testBit_leInt, flipBit]
  by_cases byte : i / 8 = j / 8
  · have position : i % 8 = j % 8 ↔ i = j := by omega
    have low : i % 8 < 8 := Nat.mod_lt i (by decide)
    rw [← byte, byteAt_set_self _ inside, BitVec.getLsbD_xor, BitVec.getLsbD_twoPow]
    simp [position, low]
  · have other : i ≠ j := fun same => byte (same ▸ rfl)
    rw [byteAt_set_ne _ _ byte]
    simp [other]

/-- A field that does not include the flipped bit keeps its value. -/
theorem field_flipBit {bs : List Byte} {i lo w : Nat} (inside : i / 8 < bs.length) (outside : i < lo ∨ lo + w ≤ i) :
    field (flipBit bs i) lo w = field bs lo w := by
  refine Nat.eq_of_testBit_eq fun j => ?_
  rw [testBit_field, testBit_field, testBit_leInt_flipBit inside]
  by_cases below : j < w
  · simp [show i ≠ lo + j by omega]
  · simp [below]

theorem fieldFlag_flipBit {bs : List Byte} {i lo : Nat} (inside : i / 8 < bs.length) (other : i ≠ lo) :
    fieldFlag (flipBit bs i) lo = fieldFlag bs lo := by
  rw [fieldFlag, field_flipBit inside (by omega), fieldFlag]

theorem fieldFlag_flipBit_self {bs : List Byte} {i : Nat} (inside : i / 8 < bs.length) :
    fieldFlag (flipBit bs i) i = !fieldFlag bs i := by
  rw [fieldFlag_eq_testBit, testBit_leInt_flipBit inside, fieldFlag_eq_testBit]
  simp

/-! ## The frame record (R191) -/

/-- The record of the frame with header `hd` and data `data`, which `decode_frame` returns (`decodeFrame_of_data`). -/
def frameRecord (p : Params) (hd data : List Byte) : Frame where
  port := BitVec.ofNat 7 (field hd portLsb 7)
  protocol := frameProtocol hd
  timestampNs := BitVec.ofNat 32 (field hd nsLsb 17 * nsScale)
  timestampUsLow := BitVec.ofNat 32 (field hd uslLsb 32)
  timestampUsHigh := BitVec.ofNat 32 (field hd ushLsb 32)
  frameType := frameTypeOf hd
  id := BitVec.ofNat 32 (field hd idLsb (frameTypeOf hd).idWidth)
  routeId := route p (frameTypeOf hd) (BitVec.ofNat 32 (field hd idLsb (frameTypeOf hd).idWidth))
  fdf := fieldFlag hd fdfLsb
  rtr := fieldFlag hd rtrLsb
  ide := fieldFlag hd ideLsb
  data := data
  dataLen := data.length

/-- The bytes of a frame that its record returns (R206). -/
def frameData (bs : List Byte) : List Byte := (bs.drop hdrLen).take (frameDataLen bs.length)

theorem frameData_length (bs : List Byte) : (frameData bs).length = frameDataLen bs.length := by
  have := frameDataLen_le bs.length
  simp only [frameData, List.length_take, List.length_drop]
  omega

theorem kind_ne_zero_iff (hd : List Byte) : field hd kindLsb 1 ≠ 0 ↔ (byteAt hd 0).getLsbD 0 = true := by
  have bit := testBit_leInt hd 0
  rw [← bit, Nat.testBit_zero, field_eq_div, kindLsb, decide_eq_true_iff]
  omega

/-- A buffer that holds a header decodes by its kind alone (R192, R194). -/
theorem decodeFrame_of_length {bs : List Byte} (p : Params) (long : hdrLen ≤ bs.length) :
    decodeFrame p bs =
      if (byteAt bs 0).getLsbD 0 = true then .error .unsupportedFrameKind
      else .ok (frameRecord p (bs.take hdrLen) (frameData bs)) := by
  have kind := kind_ne_zero_iff (bs.take hdrLen)
  rw [byteAt_take bs (by decide)] at kind
  rw [decodeFrame, if_neg (Nat.not_lt.mpr long), frameRecord, frameData_length]
  simp only [kind]
  rfl

/-- The data of a clamped frame have the length the clamp gives, so they decode as data of their own (R205). -/
theorem frameDataLen_hdrLen_add (n : Nat) : frameDataLen (hdrLen + frameDataLen n) = frameDataLen n := by
  have := (frameDataLen_le n).1
  rw [frameDataLen, if_neg (by omega), Nat.add_sub_cancel_left]

/-- `decode_frame` on a header and the data the command reads. -/
theorem decodeFrame_of_data {hd data : List Byte} {n : Nat} (p : Params) (hdLen : hd.length = hdrLen)
    (kind : (byteAt hd 0).getLsbD 0 = false) (dataLen : data.length = frameDataLen n) :
    decodeFrame p (hd ++ data) = .ok (frameRecord p hd data) := by
  have header : (hd ++ data).take hdrLen = hd := List.take_left' hdLen
  have rest : frameData (hd ++ data) = data := by
    rw [frameData, List.length_append, hdLen, dataLen, frameDataLen_hdrLen_add, List.drop_left' hdLen, ← dataLen,
      List.take_length]
  have first : byteAt (hd ++ data) 0 = byteAt hd 0 := by
    rw [← byteAt_take (n := hdrLen) (hd ++ data) (by decide), header]
  rw [decodeFrame_of_length p (by rw [List.length_append]; omega), header, rest, first, kind]
  rfl

/-! ## The classifier (R202, R203, R204, R208) -/

theorem idWidth_bounds (ft : FrameType) : 2 ≤ ft.idWidth ∧ ft.idWidth ≤ 29 := by cases ft <;> decide

theorem idWidth_of_code (ft : FrameType) : ((ft.code.toNat = 0 ∨ ft.code.toNat = 2) → ft.idWidth = 11) ∧
    ((ft.code.toNat = 1 ∨ ft.code.toNat = 3) → ft.idWidth = 29) ∧ (ft.code.toNat = 4 → ft.idWidth = 6) := by
  cases ft <;> decide

theorem protocol_code_toNat (hd : List Byte) : (frameProtocol hd).code.toNat = (fieldFlag hd protoLsb).toNat := by
  rw [frameProtocol]
  cases fieldFlag hd protoLsb <;> rfl

theorem frameTypeOf_code_toNat (hd : List Byte) : (frameTypeOf hd).code.toNat =
    if (fieldFlag hd protoLsb).toNat = 1 then 4
    else if (fieldFlag hd ideLsb).toNat = 0 then (if (fieldFlag hd fdfLsb).toNat = 1 then 2 else 0)
    else (if (fieldFlag hd fdfLsb).toNat = 1 then 3 else 1) := by
  rw [frameTypeOf, frameProtocol]
  cases fieldFlag hd protoLsb <;> cases fieldFlag hd ideLsb <;> cases fieldFlag hd fdfLsb <;> rfl

theorem two_pow_idWidth_frameTypeOf (hd : List Byte) : 2 ^ (frameTypeOf hd).idWidth =
    if (fieldFlag hd protoLsb).toNat = 1 then 2 ^ 6
    else if (fieldFlag hd ideLsb).toNat = 0 then 2 ^ 11
    else 2 ^ 29 := by
  rw [frameTypeOf, frameProtocol]
  cases fieldFlag hd protoLsb <;> cases fieldFlag hd ideLsb <;> cases fieldFlag hd fdfLsb <;> rfl

/-- The ID fits its frame type (R208), for it is a field of that width. -/
theorem frameRecord_id_toNat (p : Params) (hd data : List Byte) :
    (frameRecord p hd data).id.toNat = field hd idLsb (frameTypeOf hd).idWidth := by
  have small := field_lt hd idLsb (frameTypeOf hd).idWidth
  have width : 2 ^ (frameTypeOf hd).idWidth ≤ 2 ^ 32 :=
    Nat.pow_le_pow_right (by decide) ((idWidth_bounds _).2.trans (by decide))
  exact Nat.mod_eq_of_lt (small.trans_le width)

/-- The route tag lies above every ID, so setting it adds it. -/
theorem route_ofNat (p : Params) (ft : FrameType) {id : Nat} (fits : id < 2 ^ 31) :
    route p ft (BitVec.ofNat 32 id) = BitVec.ofNat 32
      (if ft.code.toNat = 1 ∨ ft.code.toNat = 3 ∧ p.fdExtRouteTag = true then id + 0x80000000 else id) := by
  have tagged : BitVec.ofNat 32 id ||| routeTag = BitVec.ofNat 32 (id + 0x80000000) := by
    apply BitVec.eq_of_toNat_eq
    have sum : id ||| 0x80000000 = id + 0x80000000 := or_field_eq_add 1 fits
    rw [BitVec.toNat_or, BitVec.toNat_ofNat, BitVec.toNat_ofNat, Nat.mod_eq_of_lt (by omega),
      Nat.mod_eq_of_lt (by omega), ← sum]
    rfl
  cases ft with
  | canExt => simpa [route, FrameType.code] using tagged
  | canfdExt =>
    cases tag : p.fdExtRouteTag
    · simp [route, FrameType.code, tag]
    · simpa [route, FrameType.code, tag] using tagged
  | canBase | canfdBase | linRx => simp [route, FrameType.code]

/-! ## RES0 (R205) -/

theorem protocol_code_le (pr : Protocol) : pr.code.toNat ≤ 1 := by cases pr <;> decide

theorem frameType_code_le (ft : FrameType) : ft.code.toNat ≤ 4 := by cases ft <;> decide

theorem toNat_flagWord_shiftLeft (b : Bool) {k : Nat} (h : k < 32) : (flagWord b <<< k).toNat = 2 ^ k * b.toNat := by
  cases b with
  | false => simp [flagWord]
  | true => simp [flagWord, Nat.shiftLeft_eq, Nat.mod_eq_of_lt (Nat.pow_lt_pow_right (by decide : 1 < 2) h)]

theorem toNat_shiftLeft_of_lt {v : Word} {k : Nat} (fits : v.toNat * 2 ^ k < 2 ^ 32) :
    (v <<< k).toNat = 2 ^ k * v.toNat := by
  rw [BitVec.toNat_shiftLeft, Nat.shiftLeft_eq, Nat.mod_eq_of_lt fits, Nat.mul_comm]

/-- The fields of RES0 do not overlap, so RES0 is their sum. -/
theorem res0_toNat (f : Frame) : f.res0.toNat = f.port.toNat + 2 ^ 8 * f.protocol.code.toNat +
    2 ^ 16 * f.frameType.code.toNat + 2 ^ 24 * f.fdf.toNat + 2 ^ 25 * f.rtr.toNat + 2 ^ 26 * f.ide.toNat := by
  have port := f.port.isLt
  have protocol := protocol_code_le f.protocol
  have frameType := frameType_code_le f.frameType
  have fdf := f.fdf.toNat_le
  have rtr := f.rtr.toNat_le
  have ide := f.ide.toNat_le
  simp only [Frame.res0, BitVec.toNat_or, BitVec.toNat_setWidth_of_le (show 7 ≤ 32 by decide)]
  rw [toNat_shiftLeft_of_lt (by omega), toNat_shiftLeft_of_lt (by omega),
    toNat_flagWord_shiftLeft _ (by decide), toNat_flagWord_shiftLeft _ (by decide),
    toNat_flagWord_shiftLeft _ (by decide),
    or_field_eq_add (k := 8) _ (by omega), or_field_eq_add (k := 16) _ (by omega),
    or_field_eq_add (k := 24) _ (by omega), or_field_eq_add (k := 25) _ (by omega),
    or_field_eq_add (k := 26) _ (by omega)]

/-- Each field can be read back from RES0. -/
theorem res0_fields (f : Frame) : f.res0.toNat / 2 ^ 8 % 2 = f.protocol.code.toNat ∧
    f.res0.toNat / 2 ^ 16 % 8 = f.frameType.code.toNat ∧ f.res0.toNat / 2 ^ 25 % 2 = f.rtr.toNat := by
  have port := f.port.isLt
  have protocol := protocol_code_le f.protocol
  have frameType := frameType_code_le f.frameType
  have fdf := f.fdf.toNat_le
  have rtr := f.rtr.toNat_le
  rw [res0_toNat]
  omega

theorem getLsbD_res0_protocol (f : Frame) : f.res0.getLsbD 8 = decide (f.protocol = .lin) := by
  obtain ⟨code, -, -⟩ := res0_fields f
  rw [← BitVec.testBit_toNat, Nat.testBit_eq_decide_div_mod_eq, code]
  cases f.protocol <;> rfl

theorem getLsbD_res0_rtr (f : Frame) : f.res0.getLsbD 25 = f.rtr := by
  obtain ⟨-, -, flag⟩ := res0_fields f
  rw [← BitVec.testBit_toNat, Nat.testBit_eq_decide_div_mod_eq, flag]
  cases f.rtr <;> rfl

theorem getLsbD_flagWord_shiftLeft (b : Bool) {k : Nat} (i : Nat) (h : k < 32) :
    (flagWord b <<< k).getLsbD i = (b && decide (k = i)) := by
  cases b with
  | false => simp [flagWord]
  | true =>
    have bit : flagWord true <<< k = BitVec.twoPow 32 k := (BitVec.twoPow_eq 32 k).symm
    simp [bit, h]

/-- RTR sets bit 25 of RES0 and no other. -/
theorem res0_not_rtr (f : Frame) : { f with rtr := !f.rtr }.res0 = f.res0 ^^^ 0x02000000 := by
  have mask (i : Nat) : (0x02000000 : Word).getLsbD i = decide (25 = i) :=
    getLsbD_flagWord_shiftLeft true (k := 25) i (by decide)
  refine BitVec.eq_of_getLsbD_eq fun i _ => ?_
  rw [BitVec.getLsbD_xor, mask]
  by_cases bit : 25 = i
  · subst bit
    rw [getLsbD_res0_rtr, getLsbD_res0_rtr]
    simp
  · have flag (b : Bool) : (flagWord b <<< 25).getLsbD i = false := by
      rw [getLsbD_flagWord_shiftLeft b i (by decide), decide_eq_false bit, Bool.and_false]
    simp only [Frame.res0, BitVec.getLsbD_or, flag, decide_eq_false bit, Bool.xor_false]

theorem frameRecord_res0 (p : Params) (hd data : List Byte) : (frameRecord p hd data).res0 =
    BitVec.ofNat 32 (field hd portLsb 7 + 2 ^ 8 * (fieldFlag hd protoLsb).toNat +
      2 ^ 16 * (frameTypeOf hd).code.toNat + 2 ^ 24 * (fieldFlag hd fdfLsb).toNat +
      2 ^ 25 * (fieldFlag hd rtrLsb).toNat + 2 ^ 26 * (fieldFlag hd ideLsb).toNat) := by
  have sum := res0_toNat (frameRecord p hd data)
  have port : (frameRecord p hd data).port.toNat = field hd portLsb 7 := Nat.mod_mod ..
  have protocol : (frameRecord p hd data).protocol.code.toNat = (fieldFlag hd protoLsb).toNat := protocol_code_toNat hd
  rw [port, protocol] at sum
  exact BitVec.eq_of_toNat_eq (sum.trans (Nat.mod_eq_of_lt (sum ▸ BitVec.isLt _)).symm)

end Sys2Proof.Machine
end

section
/-! DECODE_FRAME (43_frame_decoder R205): the command as a function of the header and the data it reads, everything it
can answer, and the claims about receive frames. -/

namespace Sys2Proof.Machine

/-! ## The bytes of a memory -/

theorem Memory.Holds.read_eq {m : Memory} {bs : List Byte} {k : Nat} (h : m.Holds 0 bs) (inside : k < bs.length) :
    m.read k = some (byteAt bs k) := by
  have held := h k inside
  rw [Nat.zero_add] at held
  simp [held, byteAt, inside]

theorem Memory.Holds.congr {m m' : Memory} {a : Nat} {bs : List Byte} (h : m.Holds a bs)
    (same : ∀ c, a ≤ c → m'.read c = m.read c) : m'.Holds a bs :=
  fun k inside => (same _ (Nat.le_add_right a k)).trans (h k inside)

/-- A memory that differs in one byte holds the sequence changed there. -/
theorem Memory.Holds.set {m m' : Memory} {bs : List Byte} {k : Nat} {y : Byte} (h : m.Holds 0 bs)
    (changed : m'.read k = some y) (same : ∀ c, c ≠ k → m'.read c = m.read c) : m'.Holds 0 (bs.set k y) := by
  intro i inside
  rw [List.length_set] at inside
  by_cases at_k : k = i
  · rw [List.getElem?_set, if_pos at_k, if_pos (at_k ▸ inside), Nat.zero_add, ← at_k, changed]
  · rw [List.getElem?_set_ne at_k, same _ (by omega), h i inside]

/-! ## What the command reads and leaves -/

theorem byte_getLsbD_zero (b : Byte) : b.getLsbD 0 = decide (b.toNat % 2 = 1) := by
  rw [← BitVec.testBit_toNat, Nat.testBit_zero]

/-- DECODE_FRAME finds the header `hd` of a data frame and the data `data` in IBUF. -/
structure FrameInput (s : State) (hd data : List Byte) : Prop where
  fits : s.inLen.toNat ≤ s.params.bufBytes
  enough : hdrLen ≤ s.inLen.toNat
  hdLen : hd.length = hdrLen
  hdHolds : s.ibuf.Holds 0 hd
  kind : (byteAt hd 0).getLsbD 0 = false
  dataLen : data.length = frameDataLen s.inLen.toNat
  dataHolds : s.ibuf.Holds hdrLen data

/-- `s` after DECODE_FRAME decoded the frame `f`. -/
def State.framed (s : State) (f : Frame) : State :=
  (s.writeObuf f.data).finishOk (BitVec.ofNat 32 f.dataLen) f.res0 f.id f.routeId f.timestampNs f.timestampUsLow
    f.timestampUsHigh

theorem exec_decodeFrame_of_input {s : State} {hd data : List Byte} (h : FrameInput s hd data) :
    exec .decodeFrame s = .next (s.framed (frameRecord s.params hd data)) :=
  exec_decodeFrame_of_holds h.fits h.enough h.hdLen h.hdHolds h.kind h.dataLen h.dataHolds
    (decodeFrame_of_data s.params h.hdLen h.kind h.dataLen)

theorem exec_decodeFrame_of_otherKind {s : State} {b : Byte} (fits : s.inLen.toNat ≤ s.params.bufBytes)
    (enough : hdrLen ≤ s.inLen.toNat) (first : s.ibuf.read 0 = some b) (kind : b.getLsbD 0 = true) :
    exec .decodeFrame s = .next (s.raise .unsupportedFrameKind) := by
  rw [exec_decodeFrame_of_kind fits enough first, if_pos kind]

/-- Everything DECODE_FRAME can answer: the three errors in the order of 60_exceptions R255, and a frame. -/
inductive FrameCase (s : State) : State → Prop
  | large : s.params.bufBytes < s.inLen.toNat → FrameCase s (s.raise .invalidArgument)
  | short : s.inLen.toNat < hdrLen → FrameCase s (s.raise .truncatedFrame)
  | otherKind (b : Byte) : s.inLen.toNat ≤ s.params.bufBytes → hdrLen ≤ s.inLen.toNat → s.ibuf.read 0 = some b →
      b.getLsbD 0 = true → FrameCase s (s.raise .unsupportedFrameKind)
  | frame (hd data : List Byte) : FrameInput s hd data → FrameCase s (s.framed (frameRecord s.params hd data))

theorem exec_decodeFrame_cases {s t : State} (done : exec .decodeFrame s = .next t) : FrameCase s t := by
  obtain large | fits := Nat.lt_or_ge s.params.bufBytes s.inLen.toNat
  · rw [exec_decodeFrame_large large, Host.Outcome.next.injEq] at done
    exact done ▸ .large large
  obtain short | enough := Nat.lt_or_ge s.inLen.toNat hdrLen
  · rw [exec_decodeFrame_short short, Host.Outcome.next.injEq] at done
    exact done ▸ .short short
  cases first : s.ibuf.read 0 with
  | none =>
    rw [exec_decodeFrame_unwritten_kind fits enough first] at done
    cases done
  | some b =>
    cases kind : b.getLsbD 0 with
    | true =>
      rw [exec_decodeFrame_of_otherKind fits enough first kind, Host.Outcome.next.injEq] at done
      exact done ▸ .otherKind b fits enough first kind
    | false =>
      have read := done
      rw [exec_decodeFrame_of_kind fits enough first, if_neg (kind ▸ Bool.false_ne_true)] at read
      obtain ⟨hd, hdLen, hdHolds, read⟩ := withInput_eq_next.mp read
      obtain ⟨data, dataLen, dataHolds, -⟩ := withInput_eq_next.mp read
      obtain rfl : b = byteAt hd 0 :=
        Option.some.inj (first.symm.trans (hdHolds.read_eq (hdLen.symm ▸ by decide)))
      have input : FrameInput s hd data := ⟨fits, enough, hdLen, hdHolds, kind, dataLen, dataHolds⟩
      rw [exec_decodeFrame_of_input input, Host.Outcome.next.injEq] at done
      exact done ▸ .frame hd data input

/-- A successful DECODE_FRAME decoded a frame. -/
theorem exists_input_of_exec_decodeFrame {s t : State} (done : exec .decodeFrame s = .next t)
    (ok : t.status = 0x00000002) :
    ∃ hd data, FrameInput s hd data ∧ t = s.framed (frameRecord s.params hd data) := by
  cases exec_decodeFrame_cases done with
  | large | short | otherKind => cases ok
  | frame hd data input => exact ⟨hd, data, input, rfl⟩

/-! ## One flipped header bit -/

/-- With one header bit but KIND flipped in IBUF, DECODE_FRAME finds the flipped header and the same data. -/
theorem FrameInput.flipBit {s s' : State} {hd data : List Byte} {i : Nat} {b : Byte} (h : FrameInput s hd data)
    (params : s'.params = s.params) (inLen : s'.inLen = s.inLen) (inside : i / 8 < hdrLen) (notKind : i ≠ 0)
    (old : s.ibuf.read (i / 8) = some b) (flipped : s'.ibuf.read (i / 8) = some (b ^^^ BitVec.twoPow 8 (i % 8)))
    (same : ∀ a, a ≠ i / 8 → s'.ibuf.read a = s.ibuf.read a) : FrameInput s' (Machine.flipBit hd i) data := by
  obtain ⟨fits, enough, hdLen, hdHolds, kind, dataLen, dataHolds⟩ := h
  have inHeader : i / 8 < hd.length := hdLen ▸ inside
  obtain rfl : b = byteAt hd (i / 8) := Option.some.inj (old.symm.trans (hdHolds.read_eq inHeader))
  refine ⟨by rwa [params, inLen], by rwa [inLen], List.length_set.trans hdLen, hdHolds.set flipped same, ?_,
    by rwa [inLen], dataHolds.congr fun c beyond => same c (by omega)⟩
  have kindBit := testBit_leInt_flipBit inHeader 0
  rw [testBit_leInt, testBit_leInt, decide_eq_false notKind, Bool.xor_false] at kindBit
  exact kindBit.trans kind

theorem frameRecord_flipBit_reserved (p : Params) {hd : List Byte} (data : List Byte) (len : hd.length = hdrLen) :
    frameRecord p (flipBit hd 1) data = frameRecord p hd data := by
  have inside : 1 / 8 < hd.length := len ▸ by decide
  have keepFlag {lo : Nat} (other : 1 ≠ lo) : fieldFlag (flipBit hd 1) lo = fieldFlag hd lo :=
    fieldFlag_flipBit inside other
  have keep {lo w : Nat} (above : 1 < lo) : field (flipBit hd 1) lo w = field hd lo w :=
    field_flipBit inside (.inl above)
  simp (disch := decide) only [frameRecord, frameTypeOf, frameProtocol, keepFlag, keep]

theorem frameRecord_flipBit_rtr (p : Params) {hd : List Byte} (data : List Byte) (len : hd.length = hdrLen) :
    frameRecord p (flipBit hd rtrLsb) data =
      { frameRecord p hd data with rtr := !(frameRecord p hd data).rtr } := by
  have inside : rtrLsb / 8 < hd.length := len ▸ by decide
  have keepFlag {lo : Nat} (other : rtrLsb ≠ lo) : fieldFlag (flipBit hd rtrLsb) lo = fieldFlag hd lo :=
    fieldFlag_flipBit inside other
  have keep {lo w : Nat} (below : lo + w ≤ rtrLsb) : field (flipBit hd rtrLsb) lo w = field hd lo w :=
    field_flipBit inside (.inr below)
  have keepId (ft : FrameType) : field (flipBit hd rtrLsb) idLsb ft.idWidth = field hd idLsb ft.idWidth :=
    keep ((Nat.add_le_add_left (idWidth_bounds ft).2 idLsb).trans (by decide))
  simp (disch := decide) only [frameRecord, frameTypeOf, frameProtocol, keepFlag, keepId, keep,
    fieldFlag_flipBit_self inside]

/-! ## The obligations -/

/-- Settles O35: a header of kind 0 decodes, and the record's data are the bytes after it. -/
theorem oversizedDataIsClamped : Obligations.OversizedDataIsClamped := by
  intro p bs long even
  have kind : (byteAt bs 0).getLsbD 0 = false := (byte_getLsbD_zero _).trans (by rw [byteAt, even]; rfl)
  have decoded := decodeFrame_of_length p long
  rw [kind, if_neg (by decide)] at decoded
  obtain ⟨dataLen, data, counted⟩ := decodeFrame_dataLen decoded
  exact ⟨_, decoded, dataLen, data.trans (by rw [dataLen]; rfl), counted⟩

/-- Settles O36: the shortened buffer has the same header, and its data keep their length. -/
theorem decodedPrefixGivesTheSameFrame : Obligations.DecodedPrefixGivesTheSameFrame := by
  intro p bs long
  change decodeFrame p (bs.take (hdrLen + frameDataLen bs.length)) = _
  have h15 : hdrLen = 15 := rfl
  have bound := (frameDataLen_le bs.length).2
  have len : (bs.take (hdrLen + frameDataLen bs.length)).length = hdrLen + frameDataLen bs.length :=
    List.length_take_of_le (by omega)
  have data : frameData (bs.take (hdrLen + frameDataLen bs.length)) = frameData bs := by
    rw [frameData, len, frameDataLen_hdrLen_add, List.drop_take, Nat.add_sub_cancel_left, List.take_take, min_self,
      frameData]
  rw [decodeFrame_of_length p (by omega), decodeFrame_of_length p (bs := bs) long, data, List.take_take,
    min_eq_left (Nat.le_add_right ..), byteAt_take bs (by omega)]

/-- Settles O31: RES0 names the frame type whose width the ID field has. -/
theorem idFitsItsFrameType : Obligations.IdFitsItsFrameType := by
  intro s t done ok ftype
  obtain ⟨hd, data, -, rfl⟩ := exists_input_of_exec_decodeFrame done ok
  obtain ⟨-, type, -⟩ := res0_fields (frameRecord s.params hd data)
  have type : ftype = (frameTypeOf hd).code.toNat := type
  have fits := field_lt hd idLsb (frameTypeOf hd).idWidth
  obtain ⟨standard, extended, lin⟩ := idWidth_of_code (frameTypeOf hd)
  rw [State.framed, State.finishOk_res1, frameRecord_id_toNat, type]
  exact ⟨frameType_code_le _, fun type => Nat.le_of_lt_succ (standard type ▸ fits),
    fun type => Nat.le_of_lt_succ (extended type ▸ fits), fun type => Nat.le_of_lt_succ (lin type ▸ fits)⟩

/-- Settles O32: the two fields read the same stream bits, 87, 88 and 89. -/
theorem usHighAliasesProtocolAndId : Obligations.UsHighAliasesProtocolAndId := by
  intro s t done ok
  obtain ⟨hd, data, -, rfl⟩ := exists_input_of_exec_decodeFrame done ok
  have usHigh (i : Nat) (below : i < 32) :
      (frameRecord s.params hd data).timestampUsHigh.getLsbD i = (leInt hd).testBit (ushLsb + i) := by
    rw [frameRecord, BitVec.getLsbD_ofNat, testBit_field, decide_eq_true below, Bool.true_and, Bool.true_and]
  have idBit (i : Nat) (below : i < 2) :
      (frameRecord s.params hd data).id.getLsbD i = (leInt hd).testBit (idLsb + i) := by
    have width := below.trans_le (idWidth_bounds (frameTypeOf hd)).1
    rw [← BitVec.testBit_toNat, frameRecord_id_toNat, testBit_field, decide_eq_true width, Bool.true_and]
  have protocol : (frameRecord s.params hd data).res0.getLsbD 8 = (leInt hd).testBit protoLsb := by
    rw [getLsbD_res0_protocol, ← fieldFlag_eq_testBit, frameRecord, frameProtocol]
    cases fieldFlag hd protoLsb <;> rfl
  exact ⟨(usHigh 29 (by decide)).trans protocol.symm, (usHigh 30 (by decide)).trans (idBit 0 (by decide)).symm,
    (usHigh 31 (by decide)).trans (idBit 1 (by decide)).symm⟩

/-- Settles O33: the same error, or the same frame record from the flipped header. -/
theorem reservedFrameBitIsIgnored : Obligations.ReservedFrameBitIsIgnored := by
  intro s s' t b params inLen old flipped same done
  cases exec_decodeFrame_cases done with
  | large large => exact ⟨_, exec_decodeFrame_large (by rwa [params, inLen]), sameCompletion_raise ..⟩
  | short short => exact ⟨_, exec_decodeFrame_short (by rwa [inLen]), sameCompletion_raise ..⟩
  | otherKind c fits enough first kind =>
    obtain rfl : c = b := Option.some.inj (first.symm.trans old)
    have kind' : (c ^^^ 0x02).getLsbD 0 = true := by simpa using kind
    exact ⟨_, exec_decodeFrame_of_otherKind (by rwa [params, inLen]) (by rwa [inLen]) flipped kind',
      sameCompletion_raise ..⟩
  | frame hd data input =>
    have input' := input.flipBit (i := 1) params inLen (by decide) (by decide) old flipped same
    have done' := exec_decodeFrame_of_input input'
    rw [frameRecord_flipBit_reserved _ _ input.hdLen, params] at done'
    exact ⟨_, done', sameCompletion_output _ _ _ _ _ _ _ _ _ (Nat.mod_le _ _)⟩

/-- Settles O34: the flipped header gives the same record but for RTR. -/
theorem rtrIsOnlyReported : Obligations.RtrIsOnlyReported := by
  intro s s' t b params inLen old flipped same done ok
  obtain ⟨hd, data, input, rfl⟩ := exists_input_of_exec_decodeFrame done ok
  have input' := input.flipBit (i := rtrLsb) params inLen (by decide) (by decide) old flipped same
  have done' := exec_decodeFrame_of_input input'
  rw [frameRecord_flipBit_rtr _ _ input.hdLen, params] at done'
  refine ⟨_, done', ?_, ?_⟩
  · have rest := sameCompletion_output s s' data (n := BitVec.ofNat 32 data.length) 0 0 0 0 0 0 (Nat.mod_le _ _)
    exact ⟨rfl, rfl, rfl, res0_not_rtr _, rfl, rfl, rfl, rfl, rfl, rest.output⟩
  · have byte : b = byteAt hd 14 :=
      Option.some.inj (old.symm.trans (input.hdHolds.read_eq (input.hdLen.symm ▸ by decide)))
    have flag : (frameRecord s.params hd data).rtr = (byteAt hd 14).getLsbD 6 :=
      (fieldFlag_eq_testBit hd rtrLsb).trans (testBit_leInt hd rtrLsb)
    rw [byte, State.framed, State.finishOk_res0, getLsbD_res0_rtr, flag]

/-- Settles O30: the paths of `exec .decodeFrame`; every field of the record is a quotient and remainder of the header's
number. -/
theorem decodeFrameResult : Obligations.DecodeFrameResult := by
  intro s
  refine ⟨fun large => ⟨_, exec_decodeFrame_large large, raise_raises s .invalidArgument⟩,
    fun short => ⟨_, exec_decodeFrame_short short, raise_raises s .truncatedFrame⟩,
    fun b0 enough fits first odd => ⟨_, exec_decodeFrame_of_otherKind fits enough first
      ((byte_getLsbD_zero b0).trans (decide_eq_true odd)), raise_raises s .unsupportedFrameKind⟩, ?_⟩
  intro hd data enough fits hdLen hdHolds even dataLen dataHolds h port proto fdf rtr ide ftype id tagged
  have kind : (byteAt hd 0).getLsbD 0 = false := (byte_getLsbD_zero _).trans (by rw [byteAt, even]; rfl)
  have value : leInt hd = h := by rw [leInt_eq_sum, hdLen]
  have flag (lo : Nat) : (fieldFlag hd lo).toNat = h / 2 ^ lo % 2 := by rw [toNat_fieldFlag, value]
  have fieldValue (lo w : Nat) : field hd lo w = h / 2 ^ lo % 2 ^ w := by rw [field_eq_div, value]
  have type : (frameTypeOf hd).code.toNat = ftype := by
    rw [frameTypeOf_code_toNat, flag, flag, flag]
    rfl
  have idValue : field hd idLsb (frameTypeOf hd).idWidth = id := by
    rw [fieldValue, two_pow_idWidth_frameTypeOf, flag, flag]
    rfl
  have idFits : id < 2 ^ 31 := idValue ▸ (field_lt ..).trans_le
    (Nat.pow_le_pow_right (by decide) ((idWidth_bounds _).2.trans (by decide)))
  have res0 := frameRecord_res0 s.params hd data
  rw [flag, flag, flag, flag, type, fieldValue] at res0
  have routeId := route_ofNat s.params (frameTypeOf hd) idFits
  rw [type] at routeId
  have input : FrameInput s hd data := ⟨fits, enough, hdLen, hdHolds, kind, dataLen, dataHolds⟩
  refine ⟨_, exec_decodeFrame_of_input input, ⟨rfl, rfl, rfl, res0, ?_, ?_, ?_, ?_, ?_⟩, output_outputIs ..,
    output_inputsKept ..⟩
  · exact congrArg (BitVec.ofNat 32) idValue
  · rw [← routeId, ← idValue]
    rfl
  · exact congrArg (fun v => BitVec.ofNat 32 (v * 10)) (fieldValue 9 17)
  · exact congrArg (BitVec.ofNat 32) (fieldValue 26 32)
  · exact congrArg (BitVec.ofNat 32) (fieldValue 58 32)

end Sys2Proof.Machine
end

section
/-! The lifecycle of a command (44_control): the start by a write of CMD, the engine's turn, NOP, the illegal word, and
the completion of every started command. -/

namespace Sys2Proof

/-! ## The illegal words (R233) -/

theorem decode_error_of_illegal {w : Word} (illegal : rsvdField w ≠ 0 ∨ opField w = 6 ∨ opField w = 7) :
    ∃ e, decode w = .error e := by
  by_cases rsvd : rsvdField w = 0
  · have op : 6 ≤ (opField w).toNat := by
      obtain bits | op | op := illegal
      · exact absurd rsvd bits
      · rw [op]; decide
      · rw [op]; decide
    exact ⟨_, decode_of_reservedOp rsvd op⟩
  · exact ⟨_, decode_of_rsvdField_ne rsvd⟩

end Sys2Proof

namespace Sys2Proof.Machine

/-! ## The engine's turn (R234) -/

theorem perform_of_decode_ok {s : State} {i : Instr} (decoded : decode s.pend = .ok i) : perform s = exec i s := by
  rw [perform, decoded]

theorem perform_of_decode_error {s : State} {e : DecodeError} (decoded : decode s.pend = .error e) :
    perform s = .next (s.raise .illegalCommand) := by
  rw [perform, decoded, illegalCommand]

theorem engineTurn_of_busy {s : State} (busy : s.engState = .busy) : engineTurn s = recordFault s (perform s) := by
  rw [engineTurn, busy]

theorem engineTurn_of_idle {s : State} (idle : s.engState = .idle) : engineTurn s = .next s := by
  rw [engineTurn, idle]

/-- Where the engine's turn comes next, the step is that turn. -/
theorem step_of_engineNext {s : State} {es : List Input} (clear : s.faultRecord = []) (head : EngineNext s es) :
    step s = engineTurn (s.withInputs es) := by
  unfold step stepOnce inputTurn
  rw [clear]
  obtain ⟨none, rfl⟩ | engine | ⟨busy, es', poll, rfl⟩ := head
  · rw [none, withInputs_inputs_eq none]
  · rw [engine]
  · rw [poll, withInputs_inputs_eq poll]
    dsimp only
    unfold pollTurn
    rw [busy]
    rfl

/-- A step runs the pending word where a command is in flight and the engine's turn comes next. -/
theorem step_of_busy {s : State} {es : List Input} (clear : s.faultRecord = []) (busy : s.engState = .busy)
    (head : EngineNext s es) : step s = recordFault (s.withInputs es) (perform (s.withInputs es)) := by
  rw [step_of_engineNext clear head, engineTurn_of_busy (s := s.withInputs es) busy]

/-! ## NOP (R232) -/

/-- Settles O16: `finishOk` with every result 0. -/
theorem nopResult : Obligations.NopResult := fun s =>
  ⟨_, exec_nop s, finishOk_succeeds .., finishOk_inputsKept .., fun _ => rfl⟩

/-! ## The engine's turn as a step (R234) -/

/-- Settles O4: `exec` is what `perform` does with the decoded PEND, at each place of the engine's turn. -/
theorem stepRunsTheDecodedCommand : Obligations.StepRunsTheDecodedCommand := by
  intro s i decoded busy clear
  have run {es : List Input} (head : EngineNext s es) :
      step s = recordFault (s.withInputs es) (exec i (s.withInputs es)) := by
    rw [step_of_busy clear busy head, perform_of_decode_ok (s := s.withInputs es) decoded]
  refine ⟨fun none => ?_, fun es engine => run (.inr (.inl engine)), fun es poll => ?_,
    fun t u => recordFault_next u t, recordFault_fault⟩
  · rw [run (.inl ⟨none, rfl⟩), withInputs_inputs_eq none]
  · rw [run (.inr (.inr ⟨busy, es, poll, rfl⟩)), withInputs_inputs_eq poll]

/-- Settles O6: the engine's turn raises IllegalCommand, at each place of the turn. -/
theorem stepPerformsAnIllegalWord : Obligations.StepPerformsAnIllegalWord := by
  intro s e decoded busy clear
  have run {es : List Input} (head : EngineNext s es) :
      ∃ t, step s = .next t ∧ Raises (s.withInputs es) t 8 := by
    rw [step_of_busy clear busy head, perform_of_decode_error (s := s.withInputs es) decoded]
    exact ⟨_, rfl, raise_raises (s.withInputs es) .illegalCommand⟩
  refine ⟨fun none => ?_, fun es engine => run (.inr (.inl engine)), fun es poll => ?_⟩
  · exact withInputs_inputs_eq none ▸ run (.inl ⟨none, rfl⟩)
  · exact withInputs_inputs_eq poll ▸ run (.inr (.inr ⟨busy, es, poll, rfl⟩))

/-- Settles O10: the engine's turn changes nothing while the engine is idle. -/
theorem idleEngineKeepsItsState : Obligations.IdleEngineKeepsItsState := by
  intro s idle clear
  have rest {es : List Input} (head : EngineNext s es) : step s = .next (s.withInputs es) := by
    rw [step_of_engineNext clear head, engineTurn_of_idle (s := s.withInputs es) idle]
  refine ⟨fun none => ?_, fun es engine => rest (.inr (.inl engine))⟩
  rw [rest (.inl ⟨none, rfl⟩), withInputs_inputs_eq none]

/-- Settles O5: an illegal word decodes to an error, and an error completion leaves BUSY = 0, so CMD can be read. -/
theorem illegalWordRaisesIllegalCommand : Obligations.IllegalWordRaisesIllegalCommand := by
  intro s illegal
  obtain ⟨e, decoded⟩ := decode_error_of_illegal illegal
  refine ⟨_, perform_of_decode_error decoded, raise_raises s .illegalCommand, rfl, fun latched => ?_⟩
  rw [latched]
  exact hostRead_offset .cmd ((Bool.false_or _).trans (busyBit_statusErr .illegalCommand))

/-! ## The start (R231) -/

/-- Settles O8: a write at the offset of CMD is `start` outside the busy window, and only a hazard in it. -/
theorem cmdWriteStartsACommand : Obligations.CmdWriteStartsACommand := by
  intro s w
  refine ⟨fun closed free => ?_, fun inWindow => ?_⟩
  · have closed : s.windowOpen = false := by rw [State.windowOpen, closed, free]; rfl
    exact hostWrite_offset .cmd w closed
  · have opened : s.windowOpen = true := by rwa [State.windowOpen, Bool.or_eq_true]
    exact hostWrite_of_windowOpen w (busTarget_offset s.params .cmd) opened

/-! ## Progress (R235) -/

/-- A command is in flight, no fault is recorded and no reset is to come. -/
structure InFlight (s : State) : Prop where
  busy : s.engState = .busy
  clear : s.faultRecord = []
  noReset : Input.reset ∉ s.inputs

/-- The command in flight has completed, or a fault was recorded. -/
def Concluded (t : State) : Prop := t.engState = .idle ∧ doneBit t.status = true ∨ t.faultRecord ≠ []

/-- How many steps an event can last while a command is in flight: each STATUS read of a `wait` is one. -/
def Input.turns : Input → Nat
  | .poll polls => polls + 1
  | .read _ _ | .write _ _ _ | .engine | .reset => 1

/-- How many steps the pending events can last. -/
def turnsLeft (es : List Input) : Nat := (es.map Input.turns).sum

theorem turnsLeft_cons (e : Input) (es : List Input) : turnsLeft (e :: es) = e.turns + turnsLeft es := List.sum_cons

/-- `t` is past the command in flight, or nearer to the end of the pending events than `n` steps. -/
def Progress (n : Nat) (t : State) : Prop := Concluded t ∨ InFlight t ∧ turnsLeft t.inputs < n

/-- The engine's turn completes the command or records its fault. -/
theorem recordFault_perform_concluded (s : State) : ∃ t, recordFault s (perform s) = .next t ∧ Concluded t := by
  cases performed : perform s with
  | next t =>
    refine ⟨t, rfl, .inl ?_⟩
    obtain ⟨e, rfl⟩ | ⟨k, -, r0, r1, r2, r3, r4, r5, rfl⟩ := perform_next_cases performed
    · exact ⟨rfl, doneBit_statusErr e⟩
    · exact ⟨rfl, doneBit_statusOk⟩
  | fault f => exact ⟨_, rfl, .inr (List.cons_ne_nil f [])⟩
  | refused q => exact absurd performed (perform_ne_refused s q)

/-- The state at a host event, the event taken from the list. -/
theorem InFlight.tail {s : State} {e : Input} {es : List Input} (h : InFlight s) (head : s.inputs = e :: es) :
    InFlight (s.withInputs es) :=
  ⟨h.busy, h.clear, fun later => h.noReset (head ▸ List.mem_cons_of_mem e later)⟩

theorem InFlight.writeReg {s : State} (h : InFlight s) (r : Reg) (v : Word) : InFlight (s.writeReg r v) := by
  cases r with
  | cmd => exact ⟨rfl, h.clear, h.noReset⟩
  | inLen | arg0 | arg1 => exact ⟨h.busy, h.clear, h.noReset⟩
  | status | outLen | res0 | res1 | res2 | res3 | res4 | res5 | cap | reserved => exact h

theorem writeReg_inputs (s : State) (r : Reg) (v : Word) : (s.writeReg r v).inputs = s.inputs := by
  cases r <;> rfl

section
variable {s : State} {n : Nat} (h : InFlight s)
include h

theorem InFlight.readEvent (soon : turnsLeft s.inputs < n) (off : Addr) (width : Nat) :
    Progress n (readEvent s off width) := by
  cases value : hostRead s off width with
  | ok v =>
    rw [readEvent_of_ok value]
    exact .inr ⟨⟨h.busy, h.clear, h.noReset⟩, soon⟩
  | error fs =>
    rw [readEvent_of_error value]
    exact .inl (.inr (hostRead_error_ne_nil value))

theorem InFlight.writeEvent (soon : turnsLeft s.inputs < n) (off : Addr) (width : Nat) (v : Word) :
    Progress n (writeEvent s off width v) := by
  cases written : hostWrite s off width v with
  | ok t =>
    rw [writeEvent_of_ok written]
    cases (hostWrite_eq_ok written).2 with
    | reg r => exact .inr ⟨h.writeReg r v, by rwa [writeReg_inputs]⟩
    | ibuf | obuf => exact .inr ⟨⟨h.busy, h.clear, h.noReset⟩, soon⟩
  | error fs =>
    rw [writeEvent_of_error written]
    exact .inl (.inr (hostWrite_error_ne_nil written))

/-- The STATUS read of a `wait` leaves it pending with one read fewer, or ends it. -/
theorem InFlight.pollEvent {polls : Nat} (unspent : polls ≠ 0) (soon : polls + turnsLeft s.inputs < n) :
    Progress n (pollEvent s polls) := by
  cases busy : busyBit s.status with
  | true =>
    rw [pollEvent_of_busyBit polls busy]
    refine .inr ⟨⟨h.busy, h.clear, List.not_mem_cons_of_ne_of_not_mem nofun h.noReset⟩, ?_⟩
    rw [turnsLeft_cons, Input.turns]
    omega
  | false =>
    rw [pollEvent_of_not_busyBit polls busy]
    exact .inr ⟨⟨h.busy, h.clear, h.noReset⟩, by dsimp only; omega⟩

/-- A step with a command in flight never stops the machine: it concludes the command or uses up a turn of the pending
events. -/
theorem InFlight.step : ∃ t, step s = .next t ∧ Progress (turnsLeft s.inputs) t := by
  have engine {es : List Input} (next : EngineNext s es) :
      ∃ t, Machine.step s = .next t ∧ Progress (turnsLeft s.inputs) t := by
    obtain ⟨t, turn, concluded⟩ := recordFault_perform_concluded (s.withInputs es)
    exact ⟨t, (step_of_busy h.clear h.busy next).trans turn, .inl concluded⟩
  cases head : s.inputs with
  | nil => exact head ▸ engine (.inl ⟨head, rfl⟩)
  | cons e es =>
    have tail := h.tail head
    have left := turnsLeft_cons e es
    cases e with
    | engine => exact head ▸ engine (.inr (.inl head))
    | reset => exact absurd (head ▸ List.mem_cons_self) h.noReset
    | read off width =>
      exact ⟨_, step_of_read h.clear head, tail.readEvent (left ▸ Nat.lt_add_of_pos_left Nat.one_pos) off width⟩
    | write off width v =>
      exact ⟨_, step_of_write h.clear head, tail.writeEvent (left ▸ Nat.lt_add_of_pos_left Nat.one_pos) off width v⟩
    | poll polls =>
      cases polls with
      | zero => exact head ▸ engine (.inr (.inr ⟨h.busy, es, head, rfl⟩))
      | succ polls =>
        exact ⟨_, step_of_poll h.clear head (.inr polls.succ_ne_zero), tail.pollEvent polls.succ_ne_zero
          (left ▸ by rw [Input.turns, State.withInputs_inputs]; omega)⟩

end

theorem run_succ {s t : State} (n : Nat) (stepped : step s = .next t) : core.run (n + 1) s = core.run n t := by
  have stepped : core.step s = .next t := stepped
  simp only [Host.Core.run, stepped]

theorem InFlight.concludes {s : State} (h : InFlight s) : ∃ n t, core.run n s = .next t ∧ Concluded t := by
  obtain ⟨t, stepped, concluded | ⟨inFlight, nearer⟩⟩ := h.step
  · exact ⟨1, t, run_succ 0 stepped, concluded⟩
  · obtain ⟨n, u, ran, concluded⟩ := inFlight.concludes
    exact ⟨n + 1, u, (run_succ n stepped).trans ran, concluded⟩
termination_by turnsLeft s.inputs

/-- Settles O9: by induction on the turns the pending events have left. -/
theorem startedCommandCompletes : Obligations.StartedCommandCompletes :=
  fun _ busy clear noReset => InFlight.concludes ⟨busy, clear, noReset⟩

end Sys2Proof.Machine
end

section
/-! Determinism (44_control R237): the bytes each command reads (`inputExtent`), and that two blocks which agree on the
operands and on those bytes complete alike. -/

namespace Sys2Proof.Machine

/-! ## What each command reads -/

theorem inputExtent_crc16 {s : State} (fits : s.inLen.toNat ≤ s.params.bufBytes) :
    inputExtent .crc16 s = s.inLen.toNat := if_neg (Nat.not_lt.mpr fits)

theorem inputExtent_makePacket {s : State} (short : s.inLen.toNat ≤ maxPayload) :
    inputExtent .makePacket s = s.inLen.toNat := by
  have fits := (short.trans (by decide)).trans (bufBytes_ge s.params)
  exact if_neg (not_or_intro (Nat.not_lt.mpr fits) (Nat.not_lt.mpr short))

section
variable {s : State} (fits : s.inLen.toNat ≤ s.params.bufBytes)
include fits

theorem inputExtent_parsePacket (enough : pktOverhead ≤ s.inLen.toNat) :
    inputExtent .parsePacket s =
      if s.peekPreamble = false ∨ s.inLen.toNat < s.peekLength + pktOverhead then pktHeader
      else s.peekLength + pktOverhead := by
  have h11 : pktOverhead = 11 := rfl
  have skip : ¬ (s.inLen.toNat > s.params.bufBytes ∨ s.inLen.toNat < 11) := by omega
  simp only [inputExtent, if_neg skip, Bool.not_eq_true', h11]
  rfl

/-- PARSE_PACKET reads its header wherever it goes past the checks of IN_LEN. -/
theorem pktHeader_le_inputExtent (enough : pktOverhead ≤ s.inLen.toNat) : pktHeader ≤ inputExtent .parsePacket s := by
  rw [inputExtent_parsePacket fits enough]
  split_ifs
  · exact le_rfl
  · exact Nat.le_add_left_of_le (by decide)

theorem inputExtent_decodeFrame (enough : hdrLen ≤ s.inLen.toNat) :
    inputExtent .decodeFrame s =
      if (s.peek 0).getLsbD 0 = true then 1 else hdrLen + frameDataLen s.inLen.toNat := by
  have h15 : hdrLen = 15 := rfl
  have skip : ¬ (s.inLen.toNat > s.params.bufBytes ∨ s.inLen.toNat < 15) := by omega
  simp only [inputExtent, if_neg skip]
  rfl

end

/-! ## Everything PARSE_PACKET can answer (R157) -/

/-- The two errors of IN_LEN, the two found in the header, and what the packet's bytes give. -/
inductive PacketCase (s : State) : State → Prop
  | large : s.params.bufBytes < s.inLen.toNat → PacketCase s (s.raise .invalidArgument)
  | short : s.inLen.toNat < pktOverhead → PacketCase s (s.raise .truncatedPacket)
  | badPreamble (hd : List Byte) : s.inLen.toNat ≤ s.params.bufBytes → pktOverhead ≤ s.inLen.toNat →
      hd.length = pktHeader → s.ibuf.Holds 0 hd → hasPreamble hd = false → PacketCase s (s.raise .framingError)
  | longLength (hd : List Byte) : s.inLen.toNat ≤ s.params.bufBytes → pktOverhead ≤ s.inLen.toNat →
      hd.length = pktHeader → s.ibuf.Holds 0 hd → hasPreamble hd = true →
      s.inLen.toNat < declaredLength hd + pktOverhead → PacketCase s (s.raise .truncatedPacket)
  | packet (bs : List Byte) : s.inLen.toNat ≤ s.params.bufBytes → bs.length ≤ s.inLen.toNat →
      bs.length = declaredLength bs + pktOverhead → s.ibuf.Holds 0 bs → hasPreamble bs = true →
      PacketCase s (s.parsed bs)

theorem exec_parsePacket_cases {s t : State} (done : exec .parsePacket s = .next t) : PacketCase s t := by
  obtain large | fits := Nat.lt_or_ge s.params.bufBytes s.inLen.toNat
  · rw [exec_parsePacket_large large, Host.Outcome.next.injEq] at done
    exact done ▸ .large large
  obtain short | enough := Nat.lt_or_ge s.inLen.toNat pktOverhead
  · rw [exec_parsePacket_short short, Host.Outcome.next.injEq] at done
    exact done ▸ .short short
  obtain ⟨hd, hdLen, hdHolds⟩ := header_of_exec_parsePacket fits enough done
  cases pre : hasPreamble hd with
  | false =>
    rw [exec_parsePacket_of_badPreamble fits enough hdLen hdHolds pre, Host.Outcome.next.injEq] at done
    exact done ▸ .badPreamble hd fits enough hdLen hdHolds pre
  | true =>
    obtain beyond | cover := Nat.lt_or_ge s.inLen.toNat (declaredLength hd + pktOverhead)
    · rw [exec_parsePacket_of_longLength fits enough hdLen hdHolds pre beyond, Host.Outcome.next.injEq] at done
      exact done ▸ .longLength hd fits enough hdLen hdHolds pre beyond
    · obtain ⟨bs, bsLen, bsHolds⟩ := packet_of_exec_parsePacket fits enough hdLen hdHolds pre cover done
      have long : pktHeader ≤ bs.length := bsLen ▸ Nat.le_add_left_of_le (by decide)
      obtain rfl : hd = bs.take pktHeader :=
        hdHolds.unique (bsHolds.take _) (hdLen.trans (List.length_take_of_le long).symm)
      rw [hasPreamble_take bs (by decide)] at pre
      rw [declaredLength_take] at bsLen cover
      rw [exec_parsePacket_of_packet fits (bsLen ▸ cover) bsHolds pre bsLen.ge, Host.Outcome.next.injEq] at done
      exact done ▸ .packet bs fits (bsLen ▸ cover) bsLen bsHolds pre

/-! ## Equal operands -/

/-- Two blocks with the same parameters and the same operand registers. -/
structure SameOperands (s s' : State) : Prop where
  params : s'.params = s.params
  inLen : s'.inLen = s.inLen
  arg0 : s'.arg0 = s.arg0
  arg1 : s'.arg1 = s.arg1

section
variable {s s' t : State} (same : SameOperands s s')
include same

theorem exec_crc16_sameCompletion (agree : s.ibuf.AgreeBelow s'.ibuf (inputExtent .crc16 s))
    (done : exec .crc16 s = .next t) : ∃ t', exec .crc16 s' = .next t' ∧ SameCompletion t t' := by
  obtain ⟨params, inLen, arg0, -⟩ := same
  obtain large | fits := Nat.lt_or_ge s.params.bufBytes s.inLen.toNat
  · rw [exec_crc16_large large, Host.Outcome.next.injEq] at done
    exact done ▸ ⟨_, exec_crc16_large (by rwa [params, inLen]), sameCompletion_raise ..⟩
  rw [inputExtent_crc16 fits] at agree
  by_cases written : s.ibuf.Written s.inLen.toNat
  · obtain ⟨bs, len, holds⟩ := (written_iff_holds _ _).mp written
    rw [exec_crc16_of_holds fits len holds, Host.Outcome.next.injEq] at done
    have done' := exec_crc16_of_holds (s := s') (by rwa [params, inLen]) (by rwa [inLen]) (agree.holds holds len.le)
    rw [State.crcInit, arg0] at done'
    exact done ▸ ⟨_, done', sameCompletion_output s s' [] _ _ _ _ _ _ le_rfl⟩
  · rw [exec_crc16_unwritten fits written] at done
    cases done

theorem exec_makePacket_sameCompletion (agree : s.ibuf.AgreeBelow s'.ibuf (inputExtent .makePacket s))
    (done : exec .makePacket s = .next t) : ∃ t', exec .makePacket s' = .next t' ∧ SameCompletion t t' := by
  obtain ⟨-, inLen, arg0, arg1⟩ := same
  obtain long | short := Nat.lt_or_ge maxPayload s.inLen.toNat
  · rw [exec_makePacket_large (.inr long), Host.Outcome.next.injEq] at done
    exact done ▸ ⟨_, exec_makePacket_large (.inr (by rwa [inLen])), sameCompletion_raise ..⟩
  have fits := (short.trans (by decide)).trans (bufBytes_ge s.params)
  rw [inputExtent_makePacket short] at agree
  by_cases written : s.ibuf.Written s.inLen.toNat
  · obtain ⟨p, len, holds⟩ := (written_iff_holds _ _).mp written
    rw [exec_makePacket_of_payload short len holds, Host.Outcome.next.injEq] at done
    have done' := exec_makePacket_of_payload (s := s') (by rwa [inLen]) (by rwa [inLen]) (agree.holds holds len.le)
    rw [State.cmd1, State.cmd2, arg0, arg1] at done'
    refine done ▸ ⟨_, done', sameCompletion_output _ _ _ _ _ _ _ _ _ ?_⟩
    exact (Nat.mod_le _ _).trans (packetBytes_length ..).ge
  · rw [exec_makePacket_unwritten fits short written] at done
    cases done

theorem exec_parsePacket_sameCompletion (agree : s.ibuf.AgreeBelow s'.ibuf (inputExtent .parsePacket s))
    (done : exec .parsePacket s = .next t) : ∃ t', exec .parsePacket s' = .next t' ∧ SameCompletion t t' := by
  obtain ⟨params, inLen, -, -⟩ := same
  cases exec_parsePacket_cases done with
  | large large => exact ⟨_, exec_parsePacket_large (by rwa [params, inLen]), sameCompletion_raise ..⟩
  | short short => exact ⟨_, exec_parsePacket_short (by rwa [inLen]), sameCompletion_raise ..⟩
  | badPreamble hd fits enough len holds bad =>
    have holds' := agree.holds holds (len.trans_le (pktHeader_le_inputExtent fits enough))
    exact ⟨_, exec_parsePacket_of_badPreamble (by rwa [params, inLen]) (by rwa [inLen]) len holds' bad,
      sameCompletion_raise ..⟩
  | longLength hd fits enough len holds pre beyond =>
    have holds' := agree.holds holds (len.trans_le (pktHeader_le_inputExtent fits enough))
    exact ⟨_, exec_parsePacket_of_longLength (by rwa [params, inLen]) (by rwa [inLen]) len holds' pre (by rwa [inLen]),
      sameCompletion_raise ..⟩
  | packet bs fits cover len holds pre =>
    have long : 11 ≤ bs.length := len ▸ Nat.le_add_left ..
    have extent : inputExtent .parsePacket s = bs.length := by
      rw [inputExtent_parsePacket fits ((Nat.le_add_left ..).trans (len ▸ cover)),
        peekPreamble_of_holds holds (by omega), peekLength_of_holds holds (by omega), ← len, pre]
      exact if_neg (not_or_intro Bool.noConfusion (Nat.not_lt.mpr cover))
    exact ⟨_, exec_parsePacket_of_packet (by rwa [params, inLen]) (by rwa [inLen]) (agree.holds holds extent.ge) pre
      len.ge, sameCompletion_parsed ..⟩

theorem exec_encodeCanHeader_sameCompletion (done : exec .encodeCanHeader s = .next t) :
    ∃ t', exec .encodeCanHeader s' = .next t' ∧ SameCompletion t t' := by
  obtain ⟨-, -, arg0, arg1⟩ := same
  have id : s'.canId = s.canId := arg0
  have ext : s'.extended = s.extended := by rw [State.extended, arg1, State.extended]
  obtain large | fits := Nat.lt_or_ge (maxCanId s.extended) s.canId.toNat
  · rw [exec_encodeCanHeader_error large, Host.Outcome.next.injEq] at done
    exact done ▸ ⟨_, exec_encodeCanHeader_error (by rwa [id, ext]), sameCompletion_raise ..⟩
  · have header : s'.canHeader = s.canHeader := by
      simp only [State.canHeader, State.tsEnabled, State.canId, State.fd, State.extended, State.brs, arg0, arg1]
    rw [exec_encodeCanHeader_of_fits fits, Host.Outcome.next.injEq] at done
    have done' := exec_encodeCanHeader_of_fits (s := s') (by rwa [id, ext])
    rw [header] at done'
    exact done ▸ ⟨_, done', sameCompletion_output _ _ _ _ _ _ _ _ _ (leBytes_length ..).ge⟩

theorem exec_decodeFrame_sameCompletion (agree : s.ibuf.AgreeBelow s'.ibuf (inputExtent .decodeFrame s))
    (done : exec .decodeFrame s = .next t) : ∃ t', exec .decodeFrame s' = .next t' ∧ SameCompletion t t' := by
  obtain ⟨params, inLen, -, -⟩ := same
  cases exec_decodeFrame_cases done with
  | large large => exact ⟨_, exec_decodeFrame_large (by rwa [params, inLen]), sameCompletion_raise ..⟩
  | short short => exact ⟨_, exec_decodeFrame_short (by rwa [inLen]), sameCompletion_raise ..⟩
  | otherKind b fits enough first kind =>
    have peek : s.peek 0 = b := by rw [State.peek, first]; rfl
    rw [inputExtent_decodeFrame fits enough, peek, if_pos kind] at agree
    exact ⟨_, exec_decodeFrame_of_otherKind (by rwa [params, inLen]) (by rwa [inLen])
      ((agree 0 Nat.one_pos).symm.trans first) kind, sameCompletion_raise ..⟩
  | frame hd data input =>
    have peek : s.peek 0 = byteAt hd 0 := peek_of_holds input.hdHolds (input.hdLen ▸ by decide)
    rw [inputExtent_decodeFrame input.fits input.enough, peek, input.kind, if_neg Bool.false_ne_true] at agree
    have input' : FrameInput s' hd data :=
      { fits := by rw [params, inLen]; exact input.fits
        enough := inLen ▸ input.enough
        hdLen := input.hdLen
        hdHolds := agree.holds input.hdHolds (input.hdLen ▸ Nat.le_add_right ..)
        kind := input.kind
        dataLen := inLen ▸ input.dataLen
        dataHolds := fun k inside => by
          rw [← agree (hdrLen + k) (Nat.add_lt_add_left (input.dataLen ▸ inside) _)]
          exact input.dataHolds k inside }
    have done' := exec_decodeFrame_of_input input'
    rw [params] at done'
    exact ⟨_, done', sameCompletion_output _ _ _ _ _ _ _ _ _ (Nat.mod_le _ _)⟩

/-- Every command completes alike on equal operands and equal bytes read. -/
theorem exec_sameCompletion {i : Instr} (agree : s.ibuf.AgreeBelow s'.ibuf (inputExtent i s))
    (done : exec i s = .next t) : ∃ t', exec i s' = .next t' ∧ SameCompletion t t' := by
  cases i with
  | nop => cases done; exact ⟨_, exec_nop s', sameCompletion_output s s' [] _ _ _ _ _ _ le_rfl⟩
  | crc16 => exact exec_crc16_sameCompletion same agree done
  | makePacket => exact exec_makePacket_sameCompletion same agree done
  | parsePacket => exact exec_parsePacket_sameCompletion same agree done
  | encodeCanHeader => exact exec_encodeCanHeader_sameCompletion same done
  | decodeFrame => exact exec_decodeFrame_sameCompletion same agree done

end

/-- Settles O15: both blocks perform the same command, or raise IllegalCommand. -/
theorem completionDependsOnlyOnItsInputs : Obligations.CompletionDependsOnlyOnItsInputs := by
  intro s s' t params pend inLen arg0 arg1 agree done
  cases decoded : decode s.pend with
  | ok i =>
    rw [perform_of_decode_ok decoded] at done
    rw [perform_of_decode_ok (pend ▸ decoded)]
    exact exec_sameCompletion ⟨params, inLen, arg0, arg1⟩ (agree i decoded) done
  | error e =>
    rw [perform_of_decode_error decoded, Host.Outcome.next.injEq] at done
    rw [perform_of_decode_error (pend ▸ decoded)]
    exact done ▸ ⟨_, rfl, sameCompletion_raise ..⟩

end Sys2Proof.Machine
end

section
/-! What a completion keeps and which bytes it needs (60_exceptions R253, R256, R262): a command completes precisely or
raises one of the eight codes, and it completes exactly when the bytes it reads were written. -/

namespace Sys2Proof.Machine

/-! ## Precise completions (R253, R256) -/

theorem errKind_code_bounds (e : ErrKind) : 1 ≤ e.code.toNat ∧ e.code.toNat ≤ 8 := by cases e <;> decide

/-- Settles O13: a command that answers a next state raised an error or completed. -/
theorem everyCompletionIsPrecise : Obligations.EveryCompletionIsPrecise := by
  intro i s t done
  obtain ⟨e, rfl⟩ | ⟨k, -, r0, r1, r2, r3, r4, r5, rfl⟩ := exec_next_cases done
  · obtain ⟨low, high⟩ := errKind_code_bounds e
    exact .inr ⟨e.code.toNat, low, high, raise_raises s e⟩
  · exact .inl ⟨rfl, rfl⟩

/-! ## Which bytes of a memory were written -/

theorem Memory.written_zero (m : Memory) : m.Written 0 := fun _ below => absurd below (Nat.not_lt_zero _)

theorem Memory.not_written_of_read {m : Memory} {n k : Nat} (below : k < n) (missing : m.read k = none) :
    ¬ m.Written n := by
  intro written
  simpa [missing] using written k below

theorem Memory.Written.mono {m : Memory} {n n' : Nat} (h : m.Written n) (le : n' ≤ n) : m.Written n' :=
  fun k below => h k (below.trans_le le)

theorem Memory.Holds.written {m : Memory} {bs : List Byte} (h : m.Holds 0 bs) : m.Written bs.length :=
  (written_iff_holds m _).mpr ⟨bs, rfl, h⟩

theorem Memory.Holds.append {m : Memory} {a : Nat} {bs cs : List Byte} (h : m.Holds a bs)
    (h' : m.Holds (a + bs.length) cs) : m.Holds a (bs ++ cs) := by
  intro k inside
  rw [List.length_append] at inside
  obtain first | rest := Nat.lt_or_ge k bs.length
  · rw [h k first, List.getElem?_append_left first]
  · obtain ⟨j, rfl⟩ := Nat.exists_eq_add_of_le rest
    rw [← Nat.add_assoc, h' j (by omega), List.getElem?_append_right rest, Nat.add_sub_cancel_left]

/-! ## The bytes an answer needs (R262) -/

/-- The answer `r` of a command started in `s` is a completion exactly when the first `n` bytes of IBUF were written,
and UninitialisedRead otherwise. -/
def NeedsInput (s : State) (n : Nat) (r : Result) : Prop :=
  (s.ibuf.Written n → ∃ t, r = .next t) ∧ (¬ s.ibuf.Written n → r = .fault .uninitialisedRead)

section
variable {s : State} {n : Nat}

theorem needsInput_next (written : s.ibuf.Written n) (t : State) : NeedsInput s n (.next t) :=
  ⟨fun _ => ⟨t, rfl⟩, fun missing => absurd written missing⟩

theorem needsInput_fault (missing : ¬ s.ibuf.Written n) : NeedsInput s n (.fault .uninitialisedRead) :=
  ⟨fun written => absurd written missing, fun _ => rfl⟩

/-- A command that stops before its first read needs no byte. -/
theorem needsInput_of_zero {r : Result} {t : State} (unread : n = 0) (done : r = .next t) : NeedsInput s n r := by
  subst unread done
  exact needsInput_next (Memory.written_zero _) t

/-- A read within the first `n` bytes faults only where one of them is missing. -/
theorem needsInput_withInput {a count : Nat} {k : List Byte → Result} (inside : a + count ≤ n)
    (goOn : ∀ bs, bs.length = count → s.ibuf.Holds a bs → NeedsInput s n (k bs)) :
    NeedsInput s n (s.withInput a count k) := by
  by_cases written : ∀ j, j < count → (s.ibuf.read (a + j)).isSome = true
  · obtain ⟨bs, read⟩ := Option.isSome_iff_exists.mp ((Memory.readRange_isSome s.ibuf a count).mpr written)
    obtain ⟨len, holds⟩ := (Memory.readRange_eq_some _ _ _ _).mp read
    rw [withInput_of_length len holds]
    exact goOn bs len holds
  · push Not at written
    obtain ⟨j, below, missing⟩ := written
    rw [withInput_of_unwritten below (Option.not_isSome_iff_eq_none.mp missing)]
    exact needsInput_fault fun all => missing (all (a + j) (by omega))

end

/-! ## The commands -/

section
variable (s : State)

theorem exec_crc16_needsInput : NeedsInput s (inputExtent .crc16 s) (exec .crc16 s) := by
  obtain large | fits := Nat.lt_or_ge s.params.bufBytes s.inLen.toNat
  · exact needsInput_of_zero (if_pos large) (exec_crc16_large large)
  · rw [inputExtent_crc16 fits]
    refine ⟨fun written => ?_, exec_crc16_unwritten fits⟩
    obtain ⟨bs, len, holds⟩ := (written_iff_holds _ _).mp written
    exact ⟨_, exec_crc16_of_holds fits len holds⟩

theorem exec_makePacket_needsInput : NeedsInput s (inputExtent .makePacket s) (exec .makePacket s) := by
  obtain long | short := Nat.lt_or_ge maxPayload s.inLen.toNat
  · exact needsInput_of_zero (if_pos (.inr long)) (exec_makePacket_large (.inr long))
  · have fits := (short.trans (by decide)).trans (bufBytes_ge s.params)
    rw [inputExtent_makePacket short]
    refine ⟨fun written => ?_, exec_makePacket_unwritten fits short⟩
    obtain ⟨p, len, holds⟩ := (written_iff_holds _ _).mp written
    exact ⟨_, exec_makePacket_of_payload short len holds⟩

theorem exec_parsePacket_needsInput : NeedsInput s (inputExtent .parsePacket s) (exec .parsePacket s) := by
  obtain large | fits := Nat.lt_or_ge s.params.bufBytes s.inLen.toNat
  · exact needsInput_of_zero (if_pos (.inl large)) (exec_parsePacket_large large)
  obtain short | enough := Nat.lt_or_ge s.inLen.toNat pktOverhead
  · exact needsInput_of_zero (if_pos (.inr short)) (exec_parsePacket_short short)
  by_cases header : s.ibuf.Written pktHeader
  · obtain ⟨hd, len, holds⟩ := (written_iff_holds _ _).mp header
    have h9 : pktHeader = 9 := rfl
    rw [inputExtent_parsePacket fits enough, peekPreamble_of_holds holds (by omega),
      peekLength_of_holds holds len.ge]
    cases pre : hasPreamble hd with
    | false =>
      rw [if_pos (.inl rfl), exec_parsePacket_of_badPreamble fits enough len holds pre]
      exact needsInput_next header _
    | true =>
      obtain beyond | cover := Nat.lt_or_ge s.inLen.toNat (declaredLength hd + pktOverhead)
      · rw [if_pos (.inr beyond), exec_parsePacket_of_longLength fits enough len holds pre beyond]
        exact needsInput_next header _
      · rw [if_neg (not_or_intro Bool.noConfusion (Nat.not_lt.mpr cover)),
          exec_parsePacket_of_header fits enough len holds, if_neg (pre ▸ Bool.noConfusion),
          if_neg (Nat.not_lt.mpr cover)]
        refine needsInput_withInput (Nat.zero_add _).le fun bs bsLen bsHolds => ?_
        have written := bsLen ▸ bsHolds.written
        split_ifs
        · exact needsInput_next written _
        · exact needsInput_next written _
  · rw [exec_parsePacket_unwritten_header fits enough header]
    exact needsInput_fault fun written => header (written.mono (pktHeader_le_inputExtent fits enough))

theorem exec_encodeCanHeader_needsInput :
    NeedsInput s (inputExtent .encodeCanHeader s) (exec .encodeCanHeader s) := by
  obtain large | fits := Nat.lt_or_ge (maxCanId s.extended) s.canId.toNat
  · exact needsInput_of_zero rfl (exec_encodeCanHeader_error large)
  · exact needsInput_of_zero rfl (exec_encodeCanHeader_of_fits fits)

theorem exec_decodeFrame_needsInput : NeedsInput s (inputExtent .decodeFrame s) (exec .decodeFrame s) := by
  obtain large | fits := Nat.lt_or_ge s.params.bufBytes s.inLen.toNat
  · exact needsInput_of_zero (if_pos (.inl large)) (exec_decodeFrame_large large)
  obtain short | enough := Nat.lt_or_ge s.inLen.toNat hdrLen
  · exact needsInput_of_zero (if_pos (.inr short)) (exec_decodeFrame_short short)
  rw [inputExtent_decodeFrame fits enough]
  cases first : s.ibuf.read 0 with
  | none =>
    have peek : s.peek 0 = 0 := by rw [State.peek, first]; rfl
    rw [peek, if_neg (by decide), exec_decodeFrame_unwritten_kind fits enough first]
    exact needsInput_fault (Memory.not_written_of_read (Nat.add_pos_left (by decide) _) first)
  | some b =>
    have peek : s.peek 0 = b := by rw [State.peek, first]; rfl
    rw [peek]
    cases kind : b.getLsbD 0 with
    | true =>
      rw [if_pos rfl, exec_decodeFrame_of_otherKind fits enough first kind]
      exact needsInput_next (fun k below => by rw [Nat.lt_one_iff.mp below, first]; rfl) _
    | false =>
      rw [if_neg Bool.false_ne_true, exec_decodeFrame_of_kind fits enough first, if_neg (kind ▸ Bool.false_ne_true)]
      refine needsInput_withInput (by omega) fun hd hdLen hdHolds => ?_
      refine needsInput_withInput le_rfl fun data dataLen dataHolds => ?_
      obtain rfl : b = byteAt hd 0 := Option.some.inj (first.symm.trans (hdHolds.read_eq (hdLen.symm ▸ by decide)))
      have frame : s.ibuf.Holds 0 (hd ++ data) := hdHolds.append (by rwa [Nat.zero_add, hdLen])
      have written := frame.written
      rw [List.length_append, hdLen, dataLen] at written
      rw [decodeFrame_of_data s.params hdLen kind dataLen]
      exact needsInput_next written _

/-- Each command needs the bytes of its `inputExtent`, and no others. -/
theorem exec_needsInput (i : Instr) : NeedsInput s (inputExtent i s) (exec i s) := by
  cases i with
  | nop => exact needsInput_of_zero rfl (exec_nop s)
  | crc16 => exact exec_crc16_needsInput s
  | makePacket => exact exec_makePacket_needsInput s
  | parsePacket => exact exec_parsePacket_needsInput s
  | encodeCanHeader => exact exec_encodeCanHeader_needsInput s
  | decodeFrame => exact exec_decodeFrame_needsInput s

end

/-- Settles O14: `NeedsInput` of every command, command by command. -/
theorem commandCompletesExactlyWhenItsInputIsWritten :
    Obligations.CommandCompletesExactlyWhenItsInputIsWritten := fun i s => exec_needsInput s i

end Sys2Proof.Machine
end

section
/-! The faults of an access and the fault record (60_exceptions R260 to R263): which faults each access raises, that a
faulting step only records them, and that the record stays until reset. -/

namespace Sys2Proof.Machine

/-! ## The faults of an access (R260, R261, R262) -/

theorem hazard_false (s : State) : s.hazard false = if s.windowOpen then [.hostHazard] else [] := by
  rw [hazard_eq]
  simp

theorem hostRead_of_illegal {s : State} {off : Addr} {width : Nat} (illegal : busTarget s.params off width = none) :
    hostRead s off width = .error (s.hazard false ++ [.hostBusError]) := by
  rw [hostRead, illegal]

theorem hostWrite_of_illegal {s : State} {off : Addr} {width : Nat} (v : Word)
    (illegal : busTarget s.params off width = none) :
    hostWrite s off width v = .error (s.hazard false ++ [.hostBusError]) := by
  rw [hostWrite, illegal]

/-- A register always has a value, and the busy window allows the read of nothing but registers. -/
theorem allowedInWindow_of_valueAt_none {s : State} {width : Nat} {t : Target} (missing : s.valueAt width t = none) :
    allowedInWindow t = false := by
  cases t with
  | reg r => cases missing
  | ibuf k | obuf k => rfl

theorem hostRead_of_valueAt_none {s : State} {off : Addr} {width : Nat} {t : Target}
    (target : busTarget s.params off width = some t) (missing : s.valueAt width t = none) :
    hostRead s off width = .error (s.hazard false ++ [.uninitialisedRead]) := by
  rw [hostRead, target]
  dsimp only
  rw [missing, allowedInWindow_of_valueAt_none missing]

/-- In the busy window a read of a value it does not allow is a hazard and nothing else. -/
theorem hostRead_of_windowOpen {s : State} {off : Addr} {width : Nat} {t : Target} {v : Word}
    (target : busTarget s.params off width = some t) (value : s.valueAt width t = some v)
    (opened : s.windowOpen = true) (forbidden : allowedInWindow t = false) :
    hostRead s off width = .error [.hostHazard] := by
  rw [hostRead, target]
  dsimp only
  rw [value, hazard_eq, if_pos ⟨opened, forbidden⟩]

theorem readBuffer_of_unwritten {m : Memory} {k n i : Nat} (inside : i < n) (missing : m.read (k + i) = none) :
    readBuffer m k (8 * n) = none := by
  rw [readBuffer, Nat.mul_div_cancel_left _ (by decide), Option.map_eq_none_iff, ← Option.not_isSome_iff_eq_none,
    Memory.readRange_isSome]
  intro written
  have read := written i inside
  rw [missing] at read
  cases read

/-- Settles O40: one equation for each kind of access. -/
theorem everyFaultOfAnAccessIsRecorded : Obligations.EveryFaultOfAnAccessIsRecorded := by
  intro s off width v hazard
  have hazardEq : s.hazard false = hazard := hazard_false s
  rw [← hazardEq]
  refine ⟨fun illegal => ⟨hostRead_of_illegal illegal, hostWrite_of_illegal v illegal⟩, fun t target =>
    ⟨hostWrite_of_windowOpen v target, fun closed => ⟨_, hostWrite_of_target v target closed⟩,
      hostRead_of_valueAt_none target, fun r value => ⟨fun opened notStatus notCap => ?_,
        fun closed => hostRead_of_value target value (.inl closed)⟩⟩⟩
  have forbidden : allowedInWindow t = false := by simp [allowedInWindow, notStatus, notCap]
  exact hostRead_of_windowOpen target value opened forbidden

/-- Settles O49: the access has a legal form, and the missing byte leaves its target without a value. -/
theorem unwrittenByteReadFaults : Obligations.UnwrittenByteReadFaults := by
  intro s k n i hn aligned bound inside hazard
  have hazardEq : s.hazard false = hazard := hazard_false s
  have legal := bufAccessOk_of_bytes hn aligned bound
  rw [← hazardEq]
  exact ⟨fun missing => hostRead_of_valueAt_none (busTarget_of_ibuf legal) (readBuffer_of_unwritten inside missing),
    fun missing => hostRead_of_valueAt_none (busTarget_of_obuf legal) (readBuffer_of_unwritten inside missing)⟩

/-! ## What a faulting step changes (R260, R261, R262) -/

theorem perform_inputsKept {s t : State} (performed : perform s = .next t) : InputsKept s t := by
  obtain ⟨e, rfl⟩ | ⟨k, -, r0, r1, r2, r3, r4, r5, rfl⟩ := perform_next_cases performed
  · exact (raise_raises s e).kept
  · exact output_inputsKept ..

theorem writeReg_faultRecord (s : State) (r : Reg) (v : Word) : (s.writeReg r v).faultRecord = s.faultRecord := by
  cases r <;> rfl

theorem WriteCase.faultRecord_eq {s t : State} {width : Nat} {v : Word} (h : WriteCase s width v t) :
    t.faultRecord = s.faultRecord := by
  cases h with
  | reg r => exact writeReg_faultRecord s r v
  | ibuf | obuf => rfl

/-- The events `es` left of those of `s` by a faulting step: a `wait` stays pending, any other event is taken off. -/
def EventTaken (s : State) (es : List Input) : Prop :=
  (∀ n es', s.inputs = .poll n :: es' → es = s.inputs) ∧
    ((∀ n es', s.inputs ≠ .poll n :: es') → es = s.inputs.tail)

theorem eventTaken_of_cons {s : State} {e : Input} {es : List Input} (head : s.inputs = e :: es)
    (notPoll : ∀ n, e ≠ .poll n) : EventTaken s es := by
  rw [EventTaken, head]
  exact ⟨fun n _ same => absurd (List.cons.inj same).1 (notPoll n), fun _ => rfl⟩

theorem EngineNext.eventTaken {s : State} {es : List Input} (head : EngineNext s es) : EventTaken s es := by
  obtain ⟨none, rfl⟩ | engine | ⟨-, es', poll, rfl⟩ := head
  · rw [EventTaken, none]
    exact ⟨nofun, fun _ => rfl⟩
  · exact eventTaken_of_cons engine nofun
  · rw [EventTaken, poll]
    exact ⟨fun _ _ _ => rfl, fun other => absurd rfl (other 0 es')⟩

/-- Settles O52: of the cases of a step only the three faulting ones leave a fault record that is not empty. -/
theorem faultingAccessChangesNoState : Obligations.FaultingAccessChangesNoState := by
  intro s t clear stepped recorded
  cases step_next_cases stepped with
  | engineFault es f _ _ head => exact ⟨rfl, head.eventTaken⟩
  | readFault es off width fs _ head => exact ⟨rfl, eventTaken_of_cons head nofun⟩
  | writeFault es off width v fs _ head => exact ⟨rfl, eventTaken_of_cons head nofun⟩
  | reset => exact absurd rfl recorded
  | rest | read => exact absurd clear recorded
  | engine es _ _ _ _ performed => exact absurd ((perform_inputsKept performed).faultRecord.trans clear) recorded
  | write es _ _ _ _ _ _ written =>
    exact absurd ((hostWrite_eq_ok written).2.faultRecord_eq.trans clear) recorded

/-! ## The fault record (R263) -/

/-- With a fault recorded, every step but reset stops with the first one. -/
theorem step_of_recorded {s : State} {f : Fault} {fs : List Fault} (recorded : s.faultRecord = f :: fs)
    (noReset : ∀ es, s.inputs ≠ .reset :: es) : step s = .fault f := by
  unfold step stepOnce faultedTurn
  rw [recorded]
  dsimp only
  split
  · rename_i es head
    exact absurd head (noReset es)
  · rfl

/-- Settles O51: reset empties the record, and no other step is taken. -/
theorem faultRecordStaysUntilReset : Obligations.FaultRecordStaysUntilReset := fun _ _ _ recorded =>
  ⟨fun _ head => ⟨_, step_of_reset head, rfl⟩, step_of_recorded recorded⟩

end Sys2Proof.Machine
end

section
/-! Reset and hazards (70_reset_and_hazards): what no command writes, which accesses the busy window forbids and what
closes it, and how long results persist. -/

namespace Sys2Proof.Machine

/-! ## What a command keeps (R285, R293) -/

theorem exec_inputsKept {i : Instr} {s t : State} (done : exec i s = .next t) : InputsKept s t := by
  obtain ⟨e, rfl⟩ | ⟨k, -, r0, r1, r2, r3, r4, r5, rfl⟩ := exec_next_cases done
  · exact (raise_raises s e).kept
  · exact output_inputsKept ..

/-- OUT_LEN counts the bytes a command wrote to OBUF; an error wrote none. -/
theorem exec_outputIs {i : Instr} {s t : State} (done : exec i s = .next t) :
    ∃ k, OutputIs s t k ∧ t.outLen.toNat = k.length := by
  obtain ⟨e, rfl⟩ | ⟨k, small, r0, r1, r2, r3, r4, r5, rfl⟩ := exec_next_cases done
  · exact ⟨[], ⟨nofun, fun _ _ => rfl⟩, rfl⟩
  · exact ⟨k, output_outputIs .., Nat.mod_eq_of_lt (by omega)⟩

/-- Settles O11: `InputsKept`, of which the first four clauses are fields. -/
theorem commandsKeepTheirInputs : Obligations.CommandsKeepTheirInputs := by
  intro i s t done
  have kept := exec_inputsKept done
  exact ⟨kept.ibuf, kept.inLen, kept.arg0, kept.arg1, kept⟩

/-- Settles O12: OUT_LEN is the number of bytes written from offset 0 on. -/
theorem outputBeyondOutLenIsStale : Obligations.OutputBeyondOutLenIsStale := by
  intro i s t done
  obtain ⟨k, output, count⟩ := exec_outputIs done
  rw [count]
  exact ⟨output.rest, output.written.written⟩

/-! ## What the busy window forbids (R290, 60_exceptions R260) -/

theorem offset_regAt {word : Nat} (h : word ≤ 12) : (regAt word).offset.toNat = 4 * word := by
  interval_cases word <;> rfl

/-- A register that is not reserved is reached at its own offset only, by a 32-bit access (20_memory R63). -/
theorem offset_of_busTarget {p : Params} {off : Addr} {width : Nat} {r : Reg}
    (target : busTarget p off width = some (.reg r)) (named : r ≠ .reserved) : width = 32 ∧ off = r.offset := by
  obtain window | ⟨k, hk, ha⟩ | ⟨k, hk, ha⟩ | reserved := addr_region off
  · rw [busTarget_regWindow p width window, Option.ite_none_right_eq_some, regAccessOk_iff] at target
    obtain ⟨⟨wide, aligned⟩, reached⟩ := target
    cases reached
    have word : off.toNat / 4 ≤ 12 := Nat.le_of_not_lt fun above => named (regAt_reserved above)
    refine ⟨wide, BitVec.eq_of_toNat_eq ?_⟩
    rw [offset_regAt word]
    omega
  · rw [busTarget_ibufWindow p width hk ha, Option.ite_none_right_eq_some] at target
    cases target.2
  · rw [busTarget_obufWindow p width hk ha, Option.ite_none_right_eq_some] at target
    cases target.2
  · rw [busTarget_reservedRegion p width reserved] at target
    cases target

/-- The accesses the busy window allows, by their form. -/
theorem statusOrCap_of_allowedInWindow {p : Params} {off : Addr} {width : Nat} {t : Target}
    (target : busTarget p off width = some t) (allowed : allowedInWindow t = true) :
    width = 32 ∧ (off = 0x04 ∨ off = 0x30) := by
  rw [allowedInWindow, Bool.or_eq_true, beq_iff_eq, beq_iff_eq] at allowed
  obtain rfl | rfl := allowed
  · exact (offset_of_busTarget target nofun).imp_right .inl
  · exact (offset_of_busTarget target nofun).imp_right .inr

/-- No write is allowed in the busy window, and a write is a hazard nowhere else. -/
theorem hostWrite_hostHazard_iff (s : State) (off : Addr) (width : Nat) (v : Word) :
    (∃ fs, hostWrite s off width v = .error fs ∧ .hostHazard ∈ fs) ↔ s.windowOpen = true := by
  obtain ⟨-, answer⟩ | ⟨t, -, ⟨closed, answer⟩ | ⟨opened, answer⟩⟩ := hostWrite_cases s off width v <;> rw [answer]
  · simp [hostHazard_mem_hazard]
  · simp [closed]
  · simp [opened]

/-- A read is a hazard exactly where the window is open and the read reaches nothing the window allows. -/
theorem hostRead_hostHazard_iff (s : State) (off : Addr) (width : Nat) :
    (∃ fs, hostRead s off width = .error fs ∧ .hostHazard ∈ fs) ↔
      s.windowOpen = true ∧ ∀ t, busTarget s.params off width = some t → allowedInWindow t = false := by
  obtain ⟨target, answer⟩ | ⟨t, target, ⟨v, -, none, answer⟩ | ⟨-, -, answer⟩ | ⟨-, answer⟩⟩ :=
    hostRead_cases s off width <;> rw [answer, target]
  · simp [hostHazard_mem_hazard]
  · obtain closed | allowed := hazard_eq_nil.mp none
    · simp [closed]
    · simp [allowed]
  · simp [hostHazard_mem_hazard]
  · simp [hostHazard_mem_hazard]

/-- Settles O39: a hazard is a write in the open window, or a read there of neither STATUS nor CAP. -/
theorem busyWindowAllowsOnlyStatusAndCapReads : Obligations.BusyWindowAllowsOnlyStatusAndCapReads := by
  intro s off width v
  have writeHazard := hostWrite_hostHazard_iff s off width v
  have readHazard := hostRead_hostHazard_iff s off width
  refine ⟨fun busy => ?_, fun unset free => ?_⟩
  · have opened : s.windowOpen = true := Bool.or_eq_true _ _ ▸ busy
    refine ⟨writeHazard.mpr opened, fun other => readHazard.mpr ⟨opened, fun t target => ?_⟩,
      hostRead_status_ok s, hostRead_cap s⟩
    exact Bool.eq_false_of_not_eq_true fun allowed => other (statusOrCap_of_allowedInWindow target allowed)
  · have closed : ¬ s.windowOpen = true := by simp [State.windowOpen, unset, free]
    exact ⟨fun fs raised hazard => closed (writeHazard.mp ⟨fs, raised, hazard⟩),
      fun fs raised hazard => closed (readHazard.mp ⟨fs, raised, hazard⟩).1⟩

/-! ## What closes the busy window (R290) -/

/-- A read carried out in the open window is 32 bits wide. -/
theorem width_of_hostRead_in_window {s : State} {off : Addr} {width : Nat} {v : Word} (opened : s.window = true)
    (value : hostRead s off width = .ok v) : width = 32 := by
  obtain ⟨t, target, -, closed | allowed⟩ := hostRead_eq_ok value
  · simp [State.windowOpen, opened] at closed
  · exact (statusOrCap_of_allowedInWindow target allowed).1

/-- Settles O41: of the cases of a step only reset and a read change the window's bit from open to closed. -/
theorem windowClosesOnlyAtAnIdleStatusRead : Obligations.WindowClosesOnlyAtAnIdleStatusRead := by
  intro s t stepped opened shut
  cases step_next_cases stepped with
  | reset es head => exact .inl ⟨es, head⟩
  | engineFault | readFault | writeFault | rest => exact absurd (opened.symm.trans shut) nofun
  | engine es _ _ _ _ performed =>
    exact absurd (opened.symm.trans ((perform_inputsKept performed).window.symm.trans shut)) nofun
  | write es off width v t _ _ written =>
    have closed := (hostWrite_eq_ok written).1
    simp [State.windowOpen, opened] at closed
  | read es es' off width v _ head value =>
    obtain rfl := width_of_hostRead_in_window (s := s.withInputs es) opened value
    obtain ⟨rfl, free⟩ : off = statusOff ∧ busyBit v = false := by simpa [opened] using shut
    obtain rfl : v = s.status := hostRead_status (s := s.withInputs es) value
    exact .inr ⟨free, rfl, es, head.imp_right fun ⟨_, _, waiting⟩ => waiting⟩

/-! ## How long results persist (R291) -/

/-- The result registers OUT_LEN and RES0..RES5 of `t` are those of `s`. -/
structure ResultsKept (s t : State) : Prop where
  outLen : t.outLen = s.outLen
  res0 : t.res0 = s.res0
  res1 : t.res1 = s.res1
  res2 : t.res2 = s.res2
  res3 : t.res3 = s.res3
  res4 : t.res4 = s.res4
  res5 : t.res5 = s.res5

/-- No register write reaches a result: a CMD write only starts its command (44_control R231). -/
theorem writeReg_resultsKept (s : State) (r : Reg) (v : Word) : ResultsKept s (s.writeReg r v) := by
  cases r <;> exact ⟨rfl, rfl, rfl, rfl, rfl, rfl, rfl⟩

theorem writeReg_obuf (s : State) (r : Reg) (v : Word) : (s.writeReg r v).obuf = s.obuf := by
  cases r <;> rfl

theorem WriteCase.resultsKept {s t : State} {width : Nat} {v : Word} (h : WriteCase s width v t) :
    ResultsKept s t := by
  cases h with
  | reg r => exact writeReg_resultsKept s r v
  | ibuf | obuf => exact ⟨rfl, rfl, rfl, rfl, rfl, rfl, rfl⟩

/-- A write below the OBUF window changes no byte of OBUF. -/
theorem hostWrite_obuf {s t : State} {off : Addr} {width : Nat} {v : Word} (written : hostWrite s off width v = .ok t)
    (below : off.toNat < 0x40000) : t.obuf = s.obuf := by
  obtain ⟨-, answer⟩ | ⟨u, target, ⟨-, answer⟩ | ⟨-, answer⟩⟩ := hostWrite_cases s off width v <;>
    rw [written] at answer <;> cases answer
  cases u with
  | reg r => exact writeReg_obuf s r v
  | ibuf k => rfl
  | obuf k =>
    have above := (busTarget_obuf target).2
    unfold obufBase at above
    omega

section
variable {s t : State} (stepped : step s = .next t) (idle : s.engState = .idle)
  (noReset : ∀ es, s.inputs ≠ .reset :: es)
include stepped idle noReset

theorem step_resultsKept_of_idle : ResultsKept s t := by
  cases step_next_cases stepped with
  | reset es head => exact absurd head (noReset es)
  | engineFault _ _ _ busy | engine _ _ _ busy => exact absurd (idle.symm.trans busy) nofun
  | readFault | writeFault | rest | read => exact ⟨rfl, rfl, rfl, rfl, rfl, rfl, rfl⟩
  | write es off width v _ _ _ written =>
    exact { (hostWrite_eq_ok written).2.resultsKept with }

theorem step_obuf_of_idle (outside : ∀ off width v es, s.inputs = .write off width v :: es → off.toNat < 0x40000) :
    t.obuf = s.obuf := by
  cases step_next_cases stepped with
  | reset es head => exact absurd head (noReset es)
  | engineFault _ _ _ busy | engine _ _ _ busy => exact absurd (idle.symm.trans busy) nofun
  | readFault | writeFault | rest | read => rfl
  | write es off width v _ _ head written =>
    exact hostWrite_obuf (s := s.withInputs es) written (outside off width v es head)

end

/-- Settles O55: an idle engine performs nothing, and of the other steps only a host write reaches a result. -/
theorem resultsPersistUntilTheNextCommand : Obligations.ResultsPersistUntilTheNextCommand := by
  intro s t stepped idle noReset
  obtain ⟨h, h0, h1, h2, h3, h4, h5⟩ := step_resultsKept_of_idle stepped idle noReset
  exact ⟨h, h0, h1, h2, h3, h4, h5, step_obuf_of_idle stepped idle noReset⟩

/-! ## After reset (R281) -/

/-- Settles O54: STATUS can be read in every state, and an idle engine with no event to come keeps its state. -/
theorem afterResetNoCommandIsPending : Obligations.AfterResetNoCommandIsPending :=
  ⟨rfl, rfl, hostRead_status_ok State.reset, (idleEngineKeepsItsState State.reset rfl rfl).1 rfl⟩

end Sys2Proof.Machine
end
